-- ==== Sys2Proof/Word.lean ====
section
/-! DEFINITION. The word types: bytes, and the 64-bit registers and addresses (00_scope.md R5: `PA_W` is at most 64,
`EA_W` is 32 or 64). -/
namespace Sys2Proof

/-- One byte of memory or of an instruction. -/
abbrev Byte := BitVec 8

/-- A linear or a physical address, or the register that holds one (20_memory.md R40). -/
abbrev Addr := BitVec 64

/-- Sparse data by key: a list of key and value pairs, in rising order of the keys where it is in canonical form. -/
abbrev Assoc (α : Type) := List (Nat × α)

end Sys2Proof
end

