-- ==== Sys2Proof/Config.lean ====
section
/-! DEFINITION. What an implementation fixes (00_scope.md R5) and the free values: constants without a body, about which
nothing can be computed or proved. -/
namespace Sys2Proof

/-- The parameters of 00_scope.md R5 that the spec leaves OPEN and that are neither an answer about an address nor a
property of DS. The machine carries them in its state and no step changes them (DESIGN CHOICE, log 3). -/
structure Params where
  /-- `GPRSGX_SIZE`, the value of `sizeof(GPRSGX_AREA)`. -/
  gprsgxSize : Nat
  /-- `xsave_frame_size` by the value of `XFRM`; an unlisted `XFRM` has the size `Config.xsaveFrameSize` (log 7). -/
  xsaveFrameSizes : Assoc Nat
  /-- `CPUID.(EAX=12H, ECX=1):EAX[6]`, the gate of the CET part (10_state.md R25). -/
  cpuid12_1Eax6 : Bool
  /-- The CPUID feature flag `EDECCSSA` (10_state.md R25, 30_encoding.md R63). -/
  edeccssaSupported : Bool
  /-- `PA_W`, the width of a physical address, at most 64 (log 24). -/
  paW : Nat
  deriving DecidableEq, Repr

/-- The size `xsave_frame_size` gives for an `XFRM` the table does not list: uninterpreted (40_edeccssa.md R74, U1, log 7). -/
opaque Config.xsaveFrameSize : BitVec 64 → Nat

/-- The error code of a `#PF` that an EPCM check raises: a draw, by the number of the execution and the faulting linear
address (60_exceptions.md R103, U3, log 5). -/
opaque Config.epcmErrorCode : Nat → Addr → Nat

/-- The error code of the `#PF` that the access check delivers for a linear page with no listed answer: a draw
(20_memory.md R42 clause 4, U4, log 4). -/
opaque Config.accessErrorCode : Nat → Addr → Nat

/-- Whether an offset lies in a DS segment that is not expand-up, by the limit and the offset: uninterpreted
(20_memory.md R41, D13, log 8). -/
opaque Config.dsContainsExpandDown : BitVec 32 → Nat → Bool

end Sys2Proof
end

