-- ==== Sys2Proof/Syntax.lean ====
section
/-! DEFINITION. The instructions: one constructor per row of spec/opcode_table.json. -/
namespace Sys2Proof

/-- The one instruction of the spec (00_scope.md R1). It has no explicit operand, no field and no immediate
(30_encoding.md R61), so its constructor has no argument; its implicit operand `EAX` is read from the state. -/
inductive Instr where
  /-- `ENCLU[EDECCSSA]`, bytes `0F 01 D7` with `EAX = 09H` (40_edeccssa.md R70). -/
  | edeccssa
  deriving DecidableEq, Repr

end Sys2Proof
end

