-- ==== Sys2Proof/Machine/State.lean ====
section
/-! DEFINITION. The state of the machine as plain data (10_state.md), the faults and the refusals, and the state that
stands for reset. -/
namespace Sys2Proof.Machine

/-- Bytes of memory by address: a list in one canonical form (`Memory.wf` in Machine/Memory.lean). -/
abbrev Memory := List Host.Cell

/-- The processor modes of 30_encoding.md R68, the conditions of launch premise L4 (log 15). -/
structure ProcMode where
  /-- `CR0.PE`: protected mode. -/
  pe : Bool
  /-- Virtual-8086 mode. -/
  v86 : Bool
  /-- System-management mode. -/
  smm : Bool
  /-- The enclave extension is enabled. -/
  enclaveExt : Bool
  /-- The privilege level. -/
  cpl : Nat
  /-- `CR0.PG`: paging. -/
  pg : Bool
  /-- `CR0.NE`: native floating-point error reporting. -/
  ne : Bool
  deriving DecidableEq, Repr

/-- The DS segment (10_state.md R16): a base, and what `ds_contains` needs, a limit and a direction. Nothing of it is
read when `MODE64 = 1`. -/
structure DsSegment where
  base : BitVec 32
  limit : BitVec 32
  expandUp : Bool
  deriving DecidableEq, Repr

/-- A TCS (10_state.md R18), a record (D20, log 21). -/
structure Tcs where
  /-- Index of the current SSA frame; the field the leaf decrements. -/
  cssa : BitVec 32
  /-- Offset of SSA frame 0 from `SECS.BASEADDR`. -/
  ossa : BitVec 64
  /-- Offset of entry 0 of the CET state save area from `SECS.BASEADDR`. -/
  ocetssa : BitVec 64
  /-- The TCS is valid (launch premise L6, log 16). -/
  valid : Bool
  /-- The TCS is available to this logical processor: it is the one it entered the enclave through (L6, log 16). -/
  available : Bool
  /-- The TCS is locked by another agent (L6, U11, log 16). -/
  locked : Bool
  /-- The numbers of the SSA frames that are in use (40_edeccssa.md R90, log 16). -/
  framesInUse : List Nat
  /-- The other fields, an opaque remainder that the leaf leaves as it is. -/
  rest : List Byte
  deriving DecidableEq, Repr

/-- A SECS (10_state.md R19): the five fields the leaf reads. -/
structure Secs where
  baseAddr : BitVec 64
  /-- Size of one SSA frame in 4096-byte pages. -/
  ssaFrameSize : BitVec 32
  /-- `ATTRIBUTES.XFRM`. -/
  xfrm : BitVec 64
  /-- `CET_ATTRIBUTES.SH_STK_EN`. -/
  shStkEn : Bool
  /-- `CET_ATTRIBUTES.ENDBR_EN`. -/
  endbrEn : Bool
  deriving DecidableEq, Repr

/-- The page types of 10_state.md R24. -/
inductive PageType where
  /-- `PT_REG`, a regular page. -/
  | reg
  /-- `PT_SS_REST`. -/
  | ssRest
  /-- Any other type. -/
  | other (code : Nat)
  deriving DecidableEq, Repr

/-- An EPCM entry (10_state.md R23). -/
structure EpcmEntry where
  valid : Bool
  blocked : Bool
  pending : Bool
  modified : Bool
  r : Bool
  w : Bool
  pt : PageType
  enclaveAddress : Addr
  /-- The identifier of the owning enclave's SECS. -/
  enclaveSecs : Nat
  deriving DecidableEq, Repr

/-- The fault an access check delivers (20_memory.md R42 clause 4): a page fault, whose faulting linear address is the
one checked, or any other fault (log 26). -/
inductive AccessFault where
  /-- A page fault with this error code. -/
  | pageFault (errorCode : Nat)
  /-- A general-protection fault with error code 0. -/
  | gp0
  /-- Any other fault, known by a number only. -/
  | other (tag : Nat)
  deriving DecidableEq, Repr

/-- The answer of `AccessCheckRW` for one linear page (20_memory.md R42). -/
inductive PageAccess where
  /-- The page is read/write accessible, at this physical page frame. -/
  | ok (frame : BitVec 52)
  /-- The check delivers this fault. -/
  | fault (f : AccessFault)
  deriving DecidableEq, Repr

/-- The machine's state: every piece that 10_state.md names, the parameters of 00_scope.md R5, and one counter of the
model's own. -/
structure State where
  /-- `RAX`; `EAX` is its low half (10_state.md R10). -/
  rax : BitVec 64
  /-- Every other general register: an opaque, unchanged component (10_state.md R11, log 23). -/
  otherRegs : List Nat
  /-- `RIP` (10_state.md R12). -/
  rip : Addr
  /-- `RFLAGS`, of which the spec gives no width and no bit (10_state.md R13, log 23). -/
  rflags : Nat
  /-- `in_enclave` (10_state.md R14). -/
  inEnclave : Bool
  /-- `MODE64` (10_state.md R15). -/
  mode64 : Bool
  /-- The processor modes of 30_encoding.md R68. -/
  procMode : ProcMode
  /-- The DS segment (10_state.md R16). -/
  ds : DsSegment
  /-- `CR_TCS_PA` (10_state.md R17). -/
  crTcsPa : Addr
  /-- `CR_ACTIVE_SECS`: it designates a SECS of `secss` (10_state.md R19). -/
  crActiveSecs : Nat
  /-- `CR_GPR_PA` (10_state.md R20). -/
  crGprPa : Addr
  /-- `CR_XSAVE_PAGE_n` by `n` (10_state.md R21); an unlisted one holds 0 (log 22). -/
  crXsavePages : Assoc Addr
  /-- `CR_CET_SAVE_AREA_PA` (10_state.md R22). -/
  crCetSaveAreaPa : Addr
  /-- The TCSs by physical address (10_state.md R18). -/
  tcss : Assoc Tcs
  /-- The SECSs by identifier (10_state.md R19). -/
  secss : Assoc Secs
  /-- The EPCM by physical page number: a page is an EPC page exactly when it has an entry (10_state.md R23, log 6). -/
  epcm : Assoc EpcmEntry
  /-- The answers of `AccessCheckRW` by linear page number (20_memory.md R42, log 4). -/
  access : Assoc PageAccess
  /-- The immutable program text by instruction address (20_memory.md R57, log 20). -/
  text : Memory
  /-- Memory by physical address: what the SSA frames and the CET state save area hold (10_state.md R30, log 20). -/
  mem : Memory
  /-- The parameters of 00_scope.md R5 (log 3). -/
  cfg : Params
  /-- The model's own: the number of this execution, from which the free values are drawn (log 5). -/
  draws : Nat
  deriving DecidableEq, Repr

/-- The faults that end a run (60_exceptions.md R100, R106). A fault changes no state (40_edeccssa.md R93), so the
state at the fault is the state the step began in. Safe: a terminal fault is never a good final state. -/
inductive Fault where
  /-- `#GP(0)`: raised by the leaf outside an enclave, when `CSSA` is 0, or when the GPR area's last byte is not in the
  DS segment outside 64-bit mode (60_exceptions.md R101); also when the access check delivers it. Safe. -/
  | gp0
  /-- `#PF(error code)` at a linear address: raised by the leaf when an examined page fails its EPCM checks, or
  delivered by the access check (60_exceptions.md R102). Safe: the error code is a free value or the oracle's. -/
  | pf (la : Addr) (errorCode : Nat)
  /-- Any other fault that the access check delivers, passed on unchanged (60_exceptions.md R100). Safe. -/
  | access (tag : Nat)
  deriving DecidableEq, Repr

/-- The situations the spec gives no meaning (00_scope.md R8, 92 D1). Every one is safe: a refusal proves nothing about
a run. -/
inductive Refusal where
  /-- An arm of `exec` that has no meaning yet; none has this at present. Safe. -/
  | notModelled (mnemonic : String)
  /-- Raised by the fetch: `text` has too few bytes at `RIP` (60_exceptions.md R115 (c)). Safe. -/
  | noInstruction
  /-- Raised by the fetch: a prefixed form (30_encoding.md R64). Safe. -/
  | prefixedForm
  /-- Raised by the fetch: bytes other than `0F 01 D7` (30_encoding.md R65). Safe. -/
  | otherInstruction
  /-- Raised by the meaning: `EAX` is not 9 (30_encoding.md R65). Safe. -/
  | otherLeaf
  /-- Raised by the meaning: the feature flag is clear (30_encoding.md R63). Safe. -/
  | notSupported
  /-- Raised by the meaning: a processor mode in which `ENCLU` is an invalid opcode (30_encoding.md R68). Safe. -/
  | invalidOpcodeMode
  /-- Raised by the meaning: paging or native floating-point error reporting is off (30_encoding.md R68). Safe. -/
  | protectionMode
  /-- Raised by the meaning: no TCS at `CR_TCS_PA` (70_reset_and_hazards.md R121 L5). Safe. -/
  | noTcs
  /-- Raised by the meaning: `CR_TCS_PA` is not in the EPC (R121 L5). Safe. -/
  | tcsNotInEpc
  /-- Raised by the meaning: `CR_ACTIVE_SECS` designates no SECS (R121 L5). Safe. -/
  | noSecs
  /-- Raised by the meaning: the TCS is not valid (R121 L6, 40_edeccssa.md R90). Safe. -/
  | tcsNotValid
  /-- Raised by the meaning: the TCS is not available (R121 L6, R90). Safe. -/
  | tcsNotAvailable
  /-- Raised by the meaning: the TCS is locked by another agent (R121 L6, R90, U11). Safe. -/
  | tcsLocked
  /-- Raised by the meaning: the target SSA frame is in use (R90). Safe. -/
  | ssaFrameInUse
  /-- Raised by the meaning: `BASEADDR` or `OSSA` is not page aligned (20_memory.md R47, R121 L7). Safe. -/
  | unaligned
  /-- Raised by the meaning: `GPRSGX_SIZE` is not from 1 to 4096 (00_scope.md R5, R121 L8). Safe. -/
  | gprAreaSize
  /-- Raised by the meaning: `TMP_XSIZE` is a multiple of 4096 (40_edeccssa.md R75). Safe. -/
  | xsizePageMultiple
  /-- Raised by the meaning: an address of 40_edeccssa.md R92 is outside `[0, 2^EA_W)` (R121 L9), or outside 64-bit mode
  `BASEADDR`, `OSSA` or `OCETSSA` is not below `2^32` (R121 L10). Safe. -/
  | addressOutOfRange
  deriving DecidableEq, Repr

/-- The state that stands for reset. The spec has none: everything is unspecified at reset, and a run begins at a launch
state (10_state.md R28, 70_reset_and_hazards.md R120). Every value is the model's (DESIGN CHOICE, log 1): the launch
premises L3 and L4 hold, `GPRSGX_SIZE` has the spec's value, the processor is outside an enclave, all else is zero or
empty. -/
def State.reset : State where
  rax := 0
  otherRegs := []
  rip := 0
  rflags := 0
  inEnclave := false
  mode64 := false
  procMode := { pe := true, v86 := false, smm := false, enclaveExt := true, cpl := 3, pg := true, ne := true }
  ds := { base := 0, limit := 0, expandUp := true }
  crTcsPa := 0
  crActiveSecs := 0
  crGprPa := 0
  crXsavePages := []
  crCetSaveAreaPa := 0
  tcss := []
  secss := []
  epcm := []
  access := []
  text := []
  mem := []
  cfg := { gprsgxSize := 184, xsaveFrameSizes := [], cpuid12_1Eax6 := false, edeccssaSupported := true, paW := 64 }
  draws := 0

end Sys2Proof.Machine
end

