-- ==== Sys2Proof/Machine/Flags.lean ====
section
/-! DEFINITION. The flags: the leaf reads none and writes none (10_state.md R13, "Flags Affected: None"). -/
namespace Sys2Proof.Machine

/-- `RFLAGS` after the leaf completes (10_state.md R13). -/
def flagsAfterEdeccssa (rflags : Nat) : Nat := rflags

end Sys2Proof.Machine
end

