-- ==== Sys2Proof/Machine/Assoc.lean ====
section
/-! DEFINITION. Sparse data by key: reading, writing and the canonical form, used by memory, the EPCM, the TCSs, the
SECSs, the oracle's answers and the `CR_XSAVE_PAGE_n` family. -/
namespace Sys2Proof.Machine

/-- The value at a key, where one is listed. -/
def assocFind {α : Type} : Assoc α → Nat → Option α
  | [], _ => none
  | (k, v) :: rest, j => if j = k then some v else assocFind rest j

/-- The list with the value at a key replaced, or entered before the first greater key. -/
def assocPut {α : Type} : Assoc α → Nat → α → Assoc α
  | [], j, x => [(j, x)]
  | (k, v) :: rest, j, x =>
    if j < k then (j, x) :: (k, v) :: rest
    else if j = k then (j, x) :: rest
    else (k, v) :: assocPut rest j x

/-- The list without any entry for a key. -/
def assocErase {α : Type} : Assoc α → Nat → Assoc α
  | [], _ => []
  | (k, v) :: rest, j => if j = k then assocErase rest j else (k, v) :: assocErase rest j

/-- The keys rise strictly, from `lo` on. -/
def assocRisingFrom {α : Type} (lo : Nat) : Assoc α → Bool
  | [] => true
  | (k, _) :: rest => decide (lo ≤ k) && assocRisingFrom (k + 1) rest

/-- The canonical form of the keys: strictly rising, so without repeats. -/
def assocRising {α : Type} (l : Assoc α) : Bool := assocRisingFrom 0 l

end Sys2Proof.Machine
end

