-- ==== Sys2Proof/Machine/Memory.lean ====
section
/-! DEFINITION. Memory, byte addressed (20_memory.md R40): reading and writing a byte, the bytes that follow one another
from an address, and the canonical form. -/
namespace Sys2Proof.Machine

/-- What a byte that nothing has written reads as: no value (DESIGN CHOICE, log 20). The spec gives no contents of
memory at reset (10_state.md R28). -/
def memoryUnlisted : Option Byte := none

/-- One byte of memory. -/
def Memory.read (m : Memory) (a : Addr) : Option Byte :=
  match assocFind m a.toNat with
  | some b => some b
  | none => memoryUnlisted

/-- Memory with one byte written. Writing what an unlisted address reads as removes the entry. -/
def Memory.write (m : Memory) (a : Addr) (b : Byte) : Memory :=
  if memoryUnlisted = some b then assocErase m a.toNat else assocPut m a.toNat b

/-- The canonical form: addresses strictly rising and below `2^64`, and no entry equal to what an unlisted address
reads as. -/
def Memory.wf (m : Memory) : Bool :=
  assocRising m && m.all fun c => decide (c.1 < 2 ^ 64) && decide (memoryUnlisted ≠ some c.2)

/-- The bytes at `addr i`, `addr (i + 1)`, ..., at most `k` of them, up to the first that has no value. -/
def readRun (m : Memory) (addr : Nat → Addr) : Nat → Nat → List Byte
  | _, 0 => []
  | i, k + 1 =>
    match m.read (addr i) with
    | none => []
    | some b => b :: readRun m addr (i + 1) k

/-- Memory with bytes written at `addr i`, `addr (i + 1)`, .... -/
def writeRun (m : Memory) (addr : Nat → Addr) : Nat → List Byte → Memory
  | _, [] => m
  | i, b :: rest => writeRun (m.write (addr i) b) addr (i + 1) rest

end Sys2Proof.Machine
end

