-- ==== Sys2Proof/WellFormed.lean ====
section
/-! DEFINITION. Well-formed instructions. The one instruction has no operand (30_encoding.md R61), so there is no field
that could hold a value its encoding does not admit: every term of `Instr` is well formed. -/
namespace Sys2Proof

/-- The check of an instruction's fields: `ENCLU[EDECCSSA]` has none. -/
def Instr.wf : Instr → Bool
  | .edeccssa => true

/-- Every field of the instruction holds a value that its encoding admits. -/
abbrev Instr.WellFormed (i : Instr) : Prop := i.wf = true

end Sys2Proof
end

