-- ==== Sys2Proof/Decode.lean ====
section
/-! DEFINITION. The decoder, total on any bytes, and the encoder (30_encoding.md R60 to R67). -/
namespace Sys2Proof

/-- Why the decoder rejects some bytes. -/
inductive DecodeError where
  /-- There are fewer bytes than an instruction has, and what there is could begin one. -/
  | truncated
  /-- The bytes begin with an instruction prefix: no prefixed form is admitted (30_encoding.md R64). -/
  | prefixedForm
  /-- Another instruction, in no source (30_encoding.md R65). -/
  | otherInstruction
  deriving DecidableEq, Repr

/-- `ENCLU_LEN`, the length of `ENCLU` without a prefix (00_scope.md R5, 30_encoding.md R64). -/
def encluLen : Nat := 3

/-- `LEAF_EDECCSSA`, the value of `EAX` that selects the leaf (00_scope.md R5, 30_encoding.md R60). -/
def leafEdeccssa : BitVec 32 := 9#32

/-- The bytes of each instruction, in address order (30_encoding.md R60, R67). -/
def encode : Instr → List Byte
  | .edeccssa => [0x0F, 0x01, 0xD7]

/-- A prefix byte: operand size, address size, `REP`, `LOCK`, a segment override or `REX` (30_encoding.md R64 names
them; `66`, `F2` and `F3` are its numbers, the other numbers are PRESUMED, log 12). It only tells one refusal from
another. -/
def isPrefixByte (b : Byte) : Bool :=
  b == 0x66 || b == 0xF2 || b == 0xF3 || b == 0x67 || b == 0xF0
    || b == 0x2E || b == 0x36 || b == 0x3E || b == 0x26 || b == 0x64 || b == 0x65
    || b &&& 0xF0 == 0x40

/-- The decoder (30_encoding.md R60): exactly the three bytes `0F 01 D7` are `ENCLU`. The leaf is then selected by
`EAX`, a side condition on the state and not on the bytes (R67), which the instruction's meaning tests. -/
def decode : List Byte → Except DecodeError (Instr × List Byte)
  | [] => .error .truncated
  | b0 :: rest =>
    if isPrefixByte b0 then .error .prefixedForm
    else if b0 ≠ 0x0F then .error .otherInstruction
    else match rest with
      | [] => .error .truncated
      | b1 :: rest =>
        if b1 ≠ 0x01 then .error .otherInstruction
        else match rest with
          | [] => .error .truncated
          | b2 :: rest => if b2 ≠ 0xD7 then .error .otherInstruction else .ok (.edeccssa, rest)

/-- The lowest `k` bytes of a number, least significant first: byte 0 of the instruction is bits 7:0 of its word
(30_encoding.md R67). -/
def wordBytes : Nat → Nat → List Byte
  | 0, _ => []
  | k + 1, w => BitVec.ofNat 8 w :: wordBytes k (w / 256)

/-- The bytes of the instruction whose bits are `w`, of which the opcode table gives `nbits`: every bit above is 0, up
to the longest instruction. -/
def tableBytes (nbits w : Nat) : List Byte :=
  wordBytes (max encluLen ((nbits + 7) / 8)) (w % 2 ^ nbits)

/-- What the decoder reads from an instruction given as a number, as spec/opcode_table.json numbers its bits. -/
def decodeTableWord (nbits w : Nat) : Option Instr :=
  match decode (tableBytes nbits w) with
  | .ok (i, _) => some i
  | .error _ => none

end Sys2Proof
end

