-- ==== Sys2Proof/Machine/Operands.lean ====
section
/-! DEFINITION. The operand and address forms: the implicit operand `EAX`, linear addresses, pages and offsets, and the
effective addresses the leaf computes. Effective addresses are natural numbers (40_edeccssa.md R92). -/
namespace Sys2Proof.Machine

/-- `EAX`, the low half of `RAX` (10_state.md R10). -/
def State.eax (s : State) : BitVec 32 := s.rax.setWidth 32

/-- `RAX` with `EAX` replaced and the upper half kept. -/
def withEax (rax : BitVec 64) (eax : BitVec 32) : BitVec 64 :=
  (rax &&& 0xFFFFFFFF00000000#64) ||| eax.setWidth 64

/-- `EA_W`, the width of an effective address (00_scope.md R5, D8). -/
def State.eaW (s : State) : Nat := if s.mode64 then 64 else 32

/-- An address truncated to `EA_W` bits. -/
def State.truncateEa (s : State) (a : Nat) : Addr := BitVec.ofNat 64 (a % 2 ^ s.eaW)

/-- The address of byte `i` of the instruction at `RIP`. -/
def State.fetchAddr (s : State) (i : Nat) : Addr := s.truncateEa (s.rip.toNat + i)

/-- `RIP` after the leaf (10_state.md R12): advanced by `ENCLU_LEN`, truncated to `EA_W` bits. -/
def State.nextRip (s : State) : Addr := s.truncateEa (s.rip.toNat + encluLen)

/-- `lin(x)`, the linear address `DS:x` of an effective address (20_memory.md R41, D12). -/
def State.lin (s : State) (x : Nat) : Addr :=
  if s.mode64 then BitVec.ofNat 64 x else BitVec.ofNat 64 ((s.ds.base.toNat + x) % 2 ^ 32)

/-- `ds_contains(o)`: an offset is in an expand-up segment when it does not exceed the limit; for any other segment
the answer is free (20_memory.md R41, D13, log 8). -/
def dsContains (ds : DsSegment) (o : Nat) : Bool :=
  if ds.expandUp then decide (o ≤ ds.limit.toNat) else Config.dsContainsExpandDown ds.limit o

/-- `PAGE`, the bytes of a page (00_scope.md R5). -/
def pageSize : Nat := 4096

/-- `CET_STRIDE`, the bytes of an entry of the CET state save area (00_scope.md R5). -/
def cetStride : Nat := 16

/-- `page(x)` of a linear or physical address: bits 11:0 cleared (00_scope.md R7). -/
def pageOf (a : Addr) : Addr := a &&& ~~~(0xFFF#64)

/-- `off(x)`, bits 11:0 of a linear or physical address (00_scope.md R7). -/
def offOf (a : Addr) : Nat := a.toNat % pageSize

/-- The number of the page an address lies in. -/
def pageNo (a : Addr) : Nat := a.toNat / pageSize

/-- The physical address of an offset in a page frame (20_memory.md R42 clause 2). -/
def physAddr (frame : BitVec 52) (o : Nat) : Addr := BitVec.ofNat 64 (frame.toNat * pageSize + o)

/-- `page(x)` of an effective address. -/
def eaPage (x : Nat) : Nat := x / pageSize * pageSize

/-- `off(x)` of an effective address. -/
def eaOff (x : Nat) : Nat := x % pageSize

/-- The start of SSA frame number `i` (10_state.md R29, 40_edeccssa.md R73). -/
def ssaFrame (tcs : Tcs) (secs : Secs) (i : Nat) : Nat :=
  tcs.ossa.toNat + secs.baseAddr.toNat + pageSize * secs.ssaFrameSize.toNat * i

/-- `P_n`, page `n` of an XSAVE area that begins at `ssa` (40_edeccssa.md R75). -/
def xsavePage (ssa n : Nat) : Nat := ssa + pageSize * n

/-- `NPAGES`, the pages that overlap an XSAVE area of `xsize` bytes (40_edeccssa.md R75). -/
def pageCount (xsize : Nat) : Nat := (xsize + (pageSize - 1)) / pageSize

/-- The end of the SSA frame that begins at `ssa`, where its GPR area ends too (40_edeccssa.md R78). -/
def frameEnd (secs : Secs) (ssa : Nat) : Nat := ssa + pageSize * secs.ssaFrameSize.toNat

/-- `TMP_GPR`, the start of the GPR area of the SSA frame that begins at `ssa` (40_edeccssa.md R78). It is used only
where the difference is not negative (R92). -/
def gprArea (cfg : Params) (secs : Secs) (ssa : Nat) : Nat := frameEnd secs ssa - cfg.gprsgxSize

/-- The last byte of a GPR area that begins at `gpr` (40_edeccssa.md R80). -/
def gprAreaLast (cfg : Params) (gpr : Nat) : Nat := gpr + cfg.gprsgxSize - 1

/-- The start of entry `i` of the CET state save area (10_state.md R29, 40_edeccssa.md R82). -/
def cetEntry (tcs : Tcs) (secs : Secs) (i : Nat) : Nat :=
  tcs.ocetssa.toNat + secs.baseAddr.toNat + i * cetStride

end Sys2Proof.Machine
end

