-- ==== Sys2Proof/Machine/Ops.lean ====
section
/-! DEFINITION. The named operations: raising a fault, the access check and the EPCM lookup, the page checks, the launch
premises, the target frame's addresses, and the writes of a completed leaf. -/
namespace Sys2Proof.Machine

/-- Taking an exception (60_exceptions.md R105, R106): the run ends at the fault and no state changes. The spec
describes no entry to a handler, so there is none here, and no return (R108) (log 18). -/
def raise (f : Fault) : Host.Outcome State Fault Refusal := .fault f

/-- The spec gives the situation no meaning (00_scope.md R8). -/
def refuse (r : Refusal) : Host.Outcome State Fault Refusal := .refused r

/-! ### The fetch -/

/-- The bytes at `RIP`, at most as many as the longest instruction has, from the immutable program text
(20_memory.md R57). -/
def State.fetchBytes (s : State) : List Byte := readRun s.text s.fetchAddr 0 encluLen

/-- The refusal that stands for each rejection of the decoder (30_encoding.md R64, R65). -/
def decodeRefusal : DecodeError → Refusal
  | .truncated => .noInstruction
  | .prefixedForm => .prefixedForm
  | .otherInstruction => .otherInstruction

/-- The state with bytes placed in the text from `RIP` on. -/
def State.placeBytes (s : State) (bytes : List Byte) : State :=
  { s with text := writeRun s.text s.fetchAddr 0 bytes }

/-- The state in which `EAX` selects an instruction's leaf (30_encoding.md R60, R67; log 2). -/
def State.selectLeaf (s : State) : Option Instr → State
  | some .edeccssa => { s with rax := withEax s.rax leafEdeccssa }
  | none => s

/-! ### Translation and the EPCM -/

/-- The fault value of an access check of a linear address (20_memory.md R42 clause 4). -/
def accessFaultAt (la : Addr) : AccessFault → Fault
  | .pageFault ec => .pf la ec
  | .gp0 => .gp0
  | .other tag => .access tag

/-- `AccessCheckRW(la)`, the oracle (20_memory.md R42, D14): the answer listed for the linear page, and a page fault
where none is listed (log 4). -/
def State.accessCheckRW (s : State) (la : Addr) : Except Fault Addr :=
  match assocFind s.access (pageNo la) with
  | some (.ok frame) => .ok (physAddr frame (offOf la))
  | some (.fault f) => .error (accessFaultAt la f)
  | none => .error (.pf la (Config.accessErrorCode s.draws la))

/-- The EPCM entry of the page that a physical address lies in (20_memory.md R44). `is_epc(pa)` is that there is one
(10_state.md R23, log 6). -/
def State.epcmEntry (s : State) (pa : Addr) : Option EpcmEntry := assocFind s.epcm (pageNo pa)

/-- The `#PF` of an EPCM check, with the examined linear address and a free error code (60_exceptions.md R102, R103). -/
def State.epcmFault (s : State) (la : Addr) : Fault := .pf la (Config.epcmErrorCode s.draws la)

/-- The six checks of an SSA page or of the GPR area, in order (40_edeccssa.md R76, R79): they answer the physical
address of `la`. `owner` is `EPCM(CR_TCS_PA).ENCLAVESECS`. -/
def State.regPageCheck (s : State) (owner : Nat) (la : Addr) : Except Fault Addr :=
  match s.accessCheckRW la with
  | .error f => .error f
  | .ok pa =>
    match s.epcmEntry pa with
    | none => .error (s.epcmFault la)
    | some e =>
      if e.valid = false then .error (s.epcmFault la)
      else if e.blocked = true then .error (s.epcmFault la)
      else if e.pending = true ∨ e.modified = true then .error (s.epcmFault la)
      else if pageOf e.enclaveAddress ≠ pageOf la ∨ e.pt ≠ .reg ∨ e.enclaveSecs ≠ owner ∨ e.r = false ∨ e.w = false
      then .error (s.epcmFault la)
      else .ok pa

/-- The checks of the CET save page (40_edeccssa.md R83). `ENCLAVEADDRESS` is compared with `la` itself, as R83 says
(log 10). The five fields that L56 reads atomically are those of the one entry `e` (20_memory.md R54). -/
def State.cetPageCheck (s : State) (owner : Nat) (la : Addr) : Except Fault Addr :=
  match s.accessCheckRW la with
  | .error f => .error f
  | .ok pa =>
    match s.epcmEntry pa with
    | none => .error (s.epcmFault la)
    | some e =>
      if e.valid = false ∨ e.pending = true ∨ e.modified = true ∨ e.blocked = true ∨ e.r = false ∨ e.w = false
          ∨ pageOf e.enclaveAddress ≠ la ∨ e.pt ≠ .ssRest ∨ e.enclaveSecs ≠ owner
      then .error (s.epcmFault la)
      else .ok pa

/-- The checks of the XSAVE pages `P_n`, `P_(n+1)`, ..., `k` of them, each page's checks completed before the next
page's begin (40_edeccssa.md R76, R77): they answer `TMP_XSAVE_PAGE_PA_n`, .... -/
def State.xsavePageChecks (s : State) (owner ssa : Nat) : Nat → Nat → Except Fault (List Addr)
  | _, 0 => .ok []
  | n, k + 1 =>
    match s.regPageCheck owner (s.lin (xsavePage ssa n)) with
    | .error f => .error f
    | .ok pa =>
      match s.xsavePageChecks owner ssa (n + 1) k with
      | .error f => .error f
      | .ok pas => .ok (pa :: pas)

/-! ### The launch premises (70_reset_and_hazards.md R121) -/

/-- The conditions of 30_encoding.md R68 under which `ENCLU` is an invalid opcode. -/
def ProcMode.invalidOpcode (m : ProcMode) : Bool :=
  !m.pe || m.v86 || m.smm || !m.enclaveExt || decide (m.cpl ≠ 3)

/-- The conditions of 30_encoding.md R68 under which `ENCLU` would raise `#GP(0)`. -/
def ProcMode.protection (m : ProcMode) : Bool := !m.pg || !m.ne

/-- The premises L2, L3 and L4 (30_encoding.md R60, R63, R65, R68): the refusal of the first that fails. -/
def State.leafPremises (s : State) : Except Refusal Unit :=
  if s.eax ≠ leafEdeccssa then .error .otherLeaf
  else if s.cfg.edeccssaSupported = false then .error .notSupported
  else if s.procMode.invalidOpcode = true then .error .invalidOpcodeMode
  else if s.procMode.protection = true then .error .protectionMode
  else .ok ()

/-- What the leaf reaches through `CR_TCS_PA` and `CR_ACTIVE_SECS`. -/
structure EnclaveView where
  /-- The TCS at `CR_TCS_PA`. -/
  tcs : Tcs
  /-- The SECS that `CR_ACTIVE_SECS` designates. -/
  secs : Secs
  /-- `EPCM(CR_TCS_PA).ENCLAVESECS`. -/
  owner : Nat
  deriving DecidableEq, Repr

/-- The premises L5 and, of the TCS, L6 (40_edeccssa.md R90, 20_memory.md R44): what the leaf reaches, or the refusal of
the first that fails. -/
def State.enclaveView (s : State) : Except Refusal EnclaveView :=
  match assocFind s.tcss s.crTcsPa.toNat with
  | none => .error .noTcs
  | some tcs =>
    match s.epcmEntry s.crTcsPa with
    | none => .error .tcsNotInEpc
    | some e =>
      match assocFind s.secss s.crActiveSecs with
      | none => .error .noSecs
      | some secs =>
        if tcs.valid = false then .error .tcsNotValid
        else if tcs.available = false then .error .tcsNotAvailable
        else if tcs.locked = true then .error .tcsLocked
        else .ok { tcs := tcs, secs := secs, owner := e.enclaveSecs }

/-! ### The target frame -/

/-- The addresses of the frame that becomes current: the temporaries of 10_state.md R26. -/
structure FramePlan where
  /-- `TMP_SSA` (40_edeccssa.md R73). -/
  ssa : Nat
  /-- `NPAGES` (40_edeccssa.md R75). -/
  pages : Nat
  /-- `TMP_GPR` (40_edeccssa.md R78). -/
  gpr : Nat
  /-- `TMP_CET_SAVE_AREA` when `CETON`, else nothing (40_edeccssa.md R81, R82). -/
  cet : Option Nat
  deriving DecidableEq, Repr

/-- `xsave_frame_size(XFRM)` (40_edeccssa.md R74): the listed size, and a free one where none is listed (log 7). -/
def xsaveFrameSize (cfg : Params) (xfrm : BitVec 64) : Nat :=
  match assocFind cfg.xsaveFrameSizes xfrm.toNat with
  | some n => n
  | none => Config.xsaveFrameSize xfrm

/-- `CETON` (40_edeccssa.md R81). -/
def cetOn (cfg : Params) (secs : Secs) : Bool := cfg.cpuid12_1Eax6 && (secs.shStkEn || secs.endbrEn)

/-- The number of the SSA frame that becomes current, `c - 1` (40_edeccssa.md R72, R73). -/
def targetFrame (tcs : Tcs) : Nat := tcs.cssa.toNat - 1

/-- The target frame's addresses (40_edeccssa.md R73, R74, R75, R78, R81, R82). -/
def framePlan (cfg : Params) (v : EnclaveView) : FramePlan :=
  let ssa := ssaFrame v.tcs v.secs (targetFrame v.tcs)
  { ssa := ssa
    pages := pageCount (xsaveFrameSize cfg v.secs.xfrm)
    gpr := gprArea cfg v.secs ssa
    cet := if cetOn cfg v.secs then some (cetEntry v.tcs v.secs (targetFrame v.tcs)) else none }

/-- Every address of 40_edeccssa.md R92 lies in `[0, lim)`, with `lim = 2^EA_W`. The XSAVE pages, which end where page
number `NPAGES` would begin, do so when they end at or below `lim`; `TMP_GPR` is not negative when the frame's end is not
below `GPRSGX_SIZE`. -/
def framePlanInRange (cfg : Params) (v : EnclaveView) (p : FramePlan) (lim : Nat) : Bool :=
  decide (p.ssa < lim)
    && decide (xsavePage p.ssa p.pages ≤ lim)
    && decide (cfg.gprsgxSize ≤ frameEnd v.secs p.ssa)
    && decide (p.gpr < lim)
    && decide (gprAreaLast cfg p.gpr < lim)
    && match p.cet with
      | none => true
      | some area => decide (area + 15 < lim)

/-- `SECS.BASEADDR`, `TCS.OSSA` and `TCS.OCETSSA` are below `2^32` (70_reset_and_hazards.md R121 L10). -/
def EnclaveView.below4G (v : EnclaveView) : Bool :=
  decide (v.secs.baseAddr.toNat < 2 ^ 32) && decide (v.tcs.ossa.toNat < 2 ^ 32) && decide (v.tcs.ocetssa.toNat < 2 ^ 32)

/-- The premises L7, L8 and L10 (70_reset_and_hazards.md R121; 20_memory.md R47; 00_scope.md R5; 40_edeccssa.md R75),
asked whatever `CSSA` is (log 14). The refusal of the first that fails. -/
def State.launchPremises (s : State) (v : EnclaveView) : Except Refusal Unit :=
  if v.secs.baseAddr.toNat % pageSize ≠ 0 ∨ v.tcs.ossa.toNat % pageSize ≠ 0 then .error .unaligned
  else if s.cfg.gprsgxSize < 1 ∨ pageSize < s.cfg.gprsgxSize then .error .gprAreaSize
  else if xsaveFrameSize s.cfg v.secs.xfrm % pageSize = 0 then .error .xsizePageMultiple
  else if s.mode64 = false ∧ v.below4G = false then .error .addressOutOfRange
  else .ok ()

/-- The premises on the target frame: it is not in use (40_edeccssa.md R90), and L9 (70_reset_and_hazards.md R121;
40_edeccssa.md R92). They speak of frame `CSSA - 1`, so they are asked once `CSSA` is known not to be 0 (log 14). The
refusal of the first that fails. -/
def State.framePremises (s : State) (v : EnclaveView) : Except Refusal Unit :=
  if v.tcs.framesInUse.elem (targetFrame v.tcs) = true then .error .ssaFrameInUse
  else if framePlanInRange s.cfg v (framePlan s.cfg v) (2 ^ s.eaW) = false then .error .addressOutOfRange
  else .ok ()

/-- The physical addresses the leaf keeps for its commit. -/
structure Targets where
  /-- `TMP_XSAVE_PAGE_PA_n`, for `n = 0 .. NPAGES - 1` (40_edeccssa.md R77). -/
  xsave : List Addr
  /-- `PA(lin(TMP_GPR))` (40_edeccssa.md R86). -/
  gpr : Addr
  /-- `PA(lin(TMP_CET_SAVE_AREA))` when `CETON` (40_edeccssa.md R88). -/
  cet : Option Addr
  deriving DecidableEq, Repr

/-- The checks of the CET part (40_edeccssa.md R81 to R83) and the address it keeps (R88, 20_memory.md R43). -/
def State.cetCheck (s : State) (owner : Nat) : Option Nat → Except Fault (Option Addr)
  | none => .ok none
  | some area =>
    match s.cetPageCheck owner (s.lin (eaPage area)) with
    | .error f => .error f
    | .ok pa => .ok (some (pa + BitVec.ofNat 64 (eaOff area)))

/-- The DS limit check (40_edeccssa.md R80) fails: outside 64-bit mode the last byte of the GPR area is not in DS. -/
def State.dsLimitFails (s : State) (gpr : Nat) : Bool :=
  !s.mode64 && !dsContains s.ds (gprAreaLast s.cfg gpr)

/-- Every check of the target frame, in the order of 60_exceptions.md R104 items 3 to 6: the XSAVE pages, the GPR area,
the DS limit, the CET save page. -/
def State.frameChecks (s : State) (owner : Nat) (p : FramePlan) : Except Fault Targets :=
  match s.xsavePageChecks owner p.ssa 0 p.pages with
  | .error f => .error f
  | .ok pas =>
    match s.regPageCheck owner (s.lin p.gpr) with
    | .error f => .error f
    | .ok gprPa =>
      if s.dsLimitFails p.gpr = true then .error .gp0
      else match s.cetCheck owner p.cet with
        | .error f => .error f
        | .ok cetPa => .ok { xsave := pas, gpr := gprPa, cet := cetPa }

/-! ### The commit (40_edeccssa.md R84 to R89) -/

/-- `CR_XSAVE_PAGE_n` (10_state.md R21); an unlisted one holds 0 (log 22). -/
def xsavePageReg (regs : Assoc Addr) (n : Nat) : Addr :=
  match assocFind regs n with
  | some a => a
  | none => 0#64

/-- The family with `CR_XSAVE_PAGE_n` written. -/
def writeXsavePageReg (regs : Assoc Addr) (n : Nat) (a : Addr) : Assoc Addr :=
  if a = 0#64 then assocErase regs n else assocPut regs n a

/-- The family with `CR_XSAVE_PAGE_n`, `CR_XSAVE_PAGE_(n+1)`, ... written (40_edeccssa.md R87). -/
def writeXsavePageRegs (regs : Assoc Addr) : Nat → List Addr → Assoc Addr
  | _, [] => regs
  | n, a :: rest => writeXsavePageRegs (writeXsavePageReg regs n a) (n + 1) rest

/-- The TCS with `CSSA` decremented (40_edeccssa.md R85). -/
def Tcs.decrementCssa (t : Tcs) : Tcs := { t with cssa := t.cssa - 1#32 }

/-- The state after the leaf completes (40_edeccssa.md R85 to R89; 10_state.md R12): the writes of the commit, `RIP`
advanced, and the model's counter of executions. -/
def State.complete (s : State) (tcs : Tcs) (t : Targets) : State :=
  { s with
    tcss := assocPut s.tcss s.crTcsPa.toNat tcs.decrementCssa
    crGprPa := t.gpr
    crXsavePages := writeXsavePageRegs s.crXsavePages 0 t.xsave
    crCetSaveAreaPa := t.cet.getD s.crCetSaveAreaPa
    rflags := flagsAfterEdeccssa s.rflags
    rip := s.nextRip
    draws := s.draws + 1 }

end Sys2Proof.Machine
end

