-- ==== Sys2Proof/Machine/Edeccssa.lean ====
section
/-! DEFINITION. The meaning of `ENCLU[EDECCSSA]` (40_edeccssa.md R70 to R93, assembled in its section 5). -/
namespace Sys2Proof.Machine

/-- `ENCLU[EDECCSSA]` (40_edeccssa.md R70): the premises L2 to L4, the enclave check (R71), the premises L5 and L6,
then L7, L8 and L10, the `CSSA` check (R72), the premises on the target frame (L9), the frame's checks (R76 to R83), and
the commit (R84 to R89). -/
def execEdeccssa (s : State) : Host.Outcome State Fault Refusal :=
  match s.leafPremises with
  | .error r => refuse r
  | .ok _ =>
    if s.inEnclave = false then raise .gp0
    else match s.enclaveView with
      | .error r => refuse r
      | .ok v =>
        match s.launchPremises v with
        | .error r => refuse r
        | .ok _ =>
          if v.tcs.cssa = 0#32 then raise .gp0
          else match s.framePremises v with
            | .error r => refuse r
            | .ok _ =>
              match s.frameChecks v.owner (framePlan s.cfg v) with
              | .error f => raise f
              | .ok t => .next (s.complete v.tcs t)

end Sys2Proof.Machine
end

