-- ==== Sys2Proof/Machine/Step.lean ====
section
/-! DEFINITION. One step: fetch at `RIP`, decode, run (00_scope.md R8, 60_exceptions.md R115). `RIP` is advanced by the
instruction's meaning (10_state.md R12). -/
namespace Sys2Proof.Machine

/-- One step of the machine. -/
def step (s : State) : Host.Outcome State Fault Refusal :=
  match decode s.fetchBytes with
  | .error e => refuse (decodeRefusal e)
  | .ok (i, _) => exec i s

/-- The state with an instruction placed at `RIP` and, as the leaf is selected by `EAX` and not by the bytes alone
(30_encoding.md R60, R67), with the leaf's number in `EAX` where the bytes decode to it (log 2). -/
def State.withFetchWord (s : State) (nbits w : Nat) : State :=
  (s.placeBytes (tableBytes nbits w)).selectLeaf (decodeTableWord nbits w)

end Sys2Proof.Machine
end

