-- ==== Sys2Proof/Machine/Concurrency.lean ====
section
/-! DEFINITION. The two concurrency tables (20_memory.md R52, R53) as plain data. The model has one agent, so no step
reads them (20_memory.md R55, log 19). -/
namespace Sys2Proof.Machine

/-- The leaves that the header of Table 38-61 names (20_memory.md R53). -/
inductive OtherLeaf where
  | eaccept | eacceptcopy | emodpe | emodpr | emodt
  | eadd | eextend | einit
  | etrack | etrackc
  deriving DecidableEq, Repr

/-- The access values that the two tables hold for the leaf. -/
inductive ConcurrentAccess where
  | shared
  | concurrent
  deriving DecidableEq, Repr

/-- One cell of the tables: the access, and what happens on a conflict, where the table has an entry for that. -/
structure ConcurrencyEntry where
  access : ConcurrentAccess
  onConflict : Option String
  deriving DecidableEq, Repr

/-- Table 38-60: the leaf's access to the TCS page at `CR_TCS_PA` (20_memory.md R52). -/
def baseConcurrency : ConcurrencyEntry := { access := .shared, onConflict := none }

/-- The three groups of Table 38-61, in the header's order (20_memory.md R53). -/
inductive LeafGroup where
  | accept | build | track
  deriving DecidableEq, Repr

/-- The group that a leaf belongs to (20_memory.md R53). -/
def leafGroup : OtherLeaf → LeafGroup
  | .eaccept | .eacceptcopy | .emodpe | .emodpr | .emodt => .accept
  | .eadd | .eextend | .einit => .build
  | .etrack | .etrackc => .track

/-- Table 38-61: the leaf against each group, on the TCS page (20_memory.md R53). -/
def additionalConcurrency : LeafGroup → ConcurrencyEntry
  | .accept => { access := .concurrent, onConflict := none }
  | .build => { access := .concurrent, onConflict := none }
  | .track => { access := .concurrent, onConflict := none }

end Sys2Proof.Machine
end

