-- ==== Sys2Proof/Safety.lean ====
section
/-! DEFINITION. What the statements are made of: when a page is usable, when the launch premises hold, how a run ends,
and the invariant of the machine. Each predicate is written from the rule it cites, not from the function of the machine
that tests it. -/
namespace Sys2Proof.Machine

/-- An SSA page, or the page of the GPR area, is usable through the linear address `la`, which is the physical address
`pa` (40_edeccssa.md R76, R79). -/
def RegPageUsable (s : State) (owner : Nat) (la pa : Addr) : Prop :=
  s.accessCheckRW la = .ok pa ∧
    ∃ e, s.epcmEntry pa = some e ∧ e.valid = true ∧ e.blocked = false ∧ e.pending = false ∧ e.modified = false ∧
      pageOf e.enclaveAddress = pageOf la ∧ e.pt = .reg ∧ e.enclaveSecs = owner ∧ e.r = true ∧ e.w = true

/-- The CET save page is usable through its linear address `la`, which is the physical address `pa`
(40_edeccssa.md R83). -/
def CetPageUsable (s : State) (owner : Nat) (la pa : Addr) : Prop :=
  s.accessCheckRW la = .ok pa ∧
    ∃ e, s.epcmEntry pa = some e ∧ e.valid = true ∧ e.pending = false ∧ e.modified = false ∧ e.blocked = false ∧
      e.r = true ∧ e.w = true ∧ pageOf e.enclaveAddress = la ∧ e.pt = .ssRest ∧ e.enclaveSecs = owner

/-- The premises L2 to L4 (70_reset_and_hazards.md R121). -/
structure LeafReady (s : State) : Prop where
  leaf : s.eax = 9#32
  supported : s.cfg.edeccssaSupported = true
  pe : s.procMode.pe = true
  notV86 : s.procMode.v86 = false
  notSmm : s.procMode.smm = false
  enclaveExt : s.procMode.enclaveExt = true
  cpl : s.procMode.cpl = 3
  pg : s.procMode.pg = true
  ne : s.procMode.ne = true

/-- The premises L5 and, of the TCS, L6 (70_reset_and_hazards.md R121), with what the leaf then reaches. -/
structure EnclaveReady (s : State) (v : EnclaveView) : Prop where
  tcs : assocFind s.tcss s.crTcsPa.toNat = some v.tcs
  tcsPage : ∃ e, s.epcmEntry s.crTcsPa = some e ∧ e.enclaveSecs = v.owner
  secs : assocFind s.secss s.crActiveSecs = some v.secs
  valid : v.tcs.valid = true
  available : v.tcs.available = true
  notLocked : v.tcs.locked = false

/-- The premises L7, L8 and L10 (70_reset_and_hazards.md R121). -/
structure LaunchReady (s : State) (v : EnclaveView) : Prop where
  baseAligned : v.secs.baseAddr.toNat % 4096 = 0
  ossaAligned : v.tcs.ossa.toNat % 4096 = 0
  gprsgxSizeLow : 1 ≤ s.cfg.gprsgxSize
  gprsgxSizeHigh : s.cfg.gprsgxSize ≤ 4096
  xsize : xsaveFrameSize s.cfg v.secs.xfrm % 4096 ≠ 0
  below4G : s.mode64 = false →
    v.secs.baseAddr.toNat < 2 ^ 32 ∧ v.tcs.ossa.toNat < 2 ^ 32 ∧ v.tcs.ocetssa.toNat < 2 ^ 32

/-- The premises on the target frame: it is not in use (40_edeccssa.md R90), and L9 (70_reset_and_hazards.md R121), with
the list of 40_edeccssa.md R92. -/
structure FrameReady (s : State) (v : EnclaveView) : Prop where
  notInUse : targetFrame v.tcs ∉ v.tcs.framesInUse
  ssaInRange : (framePlan s.cfg v).ssa < 2 ^ s.eaW
  pagesInRange : ∀ n < (framePlan s.cfg v).pages, xsavePage (framePlan s.cfg v).ssa n + 4095 < 2 ^ s.eaW
  gprNotNegative : s.cfg.gprsgxSize ≤ frameEnd v.secs (framePlan s.cfg v).ssa
  gprInRange : (framePlan s.cfg v).gpr < 2 ^ s.eaW
  gprLastInRange : (framePlan s.cfg v).gpr + s.cfg.gprsgxSize - 1 < 2 ^ s.eaW
  cetInRange : ∀ area, (framePlan s.cfg v).cet = some area → area + 15 < 2 ^ s.eaW

/-- The leaf gets past its premises and the two checks that need no address (40_edeccssa.md R71, R72): what remains is
the checks of the target frame. -/
structure Admitted (s : State) (v : EnclaveView) : Prop where
  leaf : LeafReady s
  inEnclave : s.inEnclave = true
  enclave : EnclaveReady s v
  launch : LaunchReady s v
  cssa : v.tcs.cssa ≠ 0#32
  frame : FrameReady s v

/-- `P_n` of the target frame as a linear address, `DS:TMP_SSA_PAGE` (40_edeccssa.md R76). -/
def xsavePageLa (s : State) (v : EnclaveView) (n : Nat) : Addr := s.lin (xsavePage (framePlan s.cfg v).ssa n)

/-- `DS:TMP_GPR` (40_edeccssa.md R79). -/
def gprLa (s : State) (v : EnclaveView) : Addr := s.lin (framePlan s.cfg v).gpr

/-- `NPAGES` of the target frame (40_edeccssa.md R75). -/
def npages (s : State) (v : EnclaveView) : Nat := (framePlan s.cfg v).pages

/-- The DS limit check passes (40_edeccssa.md R80): in 64-bit mode always, else when the last byte of the GPR area is
in DS. -/
def DsLimitOk (s : State) (v : EnclaveView) : Prop :=
  s.mode64 = true ∨ dsContains s.ds ((framePlan s.cfg v).gpr + s.cfg.gprsgxSize - 1) = true

/-- Every XSAVE page of the target frame is usable (40_edeccssa.md R76); `pas` are their physical addresses in order
(R77). -/
def XsavePagesUsable (s : State) (v : EnclaveView) (pas : List Addr) : Prop :=
  pas.length = npages s v ∧ ∀ n pa, pas[n]? = some pa → RegPageUsable s v.owner (xsavePageLa s v n) pa

/-- The CET part passes (40_edeccssa.md R81 to R83), and `cetPa` is what it keeps: nothing when `CETON` is false, else
the physical address of the save page plus the offset of the save area (R88). -/
def CetPartOk (s : State) (v : EnclaveView) (cetPa : Option Addr) : Prop :=
  match (framePlan s.cfg v).cet with
  | none => cetPa = none
  | some area => ∃ pa, CetPageUsable s v.owner (s.lin (eaPage area)) pa ∧ cetPa = some (pa + BitVec.ofNat 64 (area % 4096))

/-- Every check of the target frame passes, and `t` holds the physical addresses it found (40_edeccssa.md R84). -/
structure FrameUsable (s : State) (v : EnclaveView) (t : Targets) : Prop where
  xsave : XsavePagesUsable s v t.xsave
  gpr : RegPageUsable s v.owner (gprLa s v) t.gpr
  ds : DsLimitOk s v
  cet : CetPartOk s v t.cet

/-- `TCS(CR_TCS_PA).CSSA`, where there is a TCS (10_state.md R18). -/
def State.cssa? (s : State) : Option (BitVec 32) := (assocFind s.tcss s.crTcsPa.toNat).map Tcs.cssa

/-- How a run of at most `k` executions ends (60_exceptions.md R115): in a final state, at a fault, which is never a
good end, or at a refusal, of which the spec says nothing. -/
def runOf (k : Nat) (s : State) : Host.Outcome State Fault Refusal := Host.Core.run Sys2Proof.core k s

/-- A safe run of `k` executions: it ends in a final state, at no fault and at no refusal (60_exceptions.md R115). -/
def SafeRun (k : Nat) (s : State) : Prop := ∃ t, runOf k s = .next t

/-- An outcome with the next state changed by `f`; a fault or a refusal is as it was. -/
def mapNext (f : State → State) : Host.Outcome State Fault Refusal → Host.Outcome State Fault Refusal
  | .next s => .next (f s)
  | .fault r => .fault r
  | .refused r => .refused r

/-- The linear addresses that the checks of the target frame may examine (40_edeccssa.md R76, R79, R83). -/
def Examined (s : State) (v : EnclaveView) (la : Addr) : Prop :=
  (∃ n < npages s v, la = xsavePageLa s v n) ∨ la = gprLa s v ∨
    ∃ area, (framePlan s.cfg v).cet = some area ∧ la = s.lin (eaPage area)

/-- The state a run from `s` is in after `i` leaves have completed, as far as the next one depends on it: `CSSA` less by
`i`, `RIP` at the next instruction (60_exceptions.md R115). `tcs` is the TCS that `s` begins with. -/
def State.popped (s : State) (tcs : Tcs) (i : Nat) : State :=
  { s with
    tcss := assocPut s.tcss s.crTcsPa.toNat { tcs with cssa := tcs.cssa - BitVec.ofNat 32 i }
    rip := BitVec.ofNat 64 ((s.rip.toNat + 3 * i) % 2 ^ s.eaW) }

/-- A physical address that the registers can hold (`PA_W` bits, 00_scope.md R5). -/
abbrev FitsPaW (s : State) (a : Addr) : Prop := a.toNat < 2 ^ s.cfg.paW

/-- The invariant of the machine: sparse data in canonical form, physical addresses of at most `PA_W` bits (10_state.md
R17, R20 to R22), `RIP` of at most `EA_W` bits (R12). -/
structure State.Inv (s : State) : Prop where
  text : Memory.wf s.text = true
  mem : Memory.wf s.mem = true
  tcss : assocRising s.tcss = true
  secss : assocRising s.secss = true
  epcm : assocRising s.epcm = true
  access : assocRising s.access = true
  xsavePages : assocRising s.crXsavePages = true
  xsavePagesListed : ∀ e ∈ s.crXsavePages, e.2 ≠ 0#64
  paW : s.cfg.paW ≤ 64
  framesFit : ∀ e ∈ s.access, ∀ f, e.2 = .ok f → (f.toNat + 1) * 4096 ≤ 2 ^ s.cfg.paW
  tcsFits : FitsPaW s s.crTcsPa
  gprFits : FitsPaW s s.crGprPa
  cetFits : FitsPaW s s.crCetSaveAreaPa
  xsavePagesFit : ∀ e ∈ s.crXsavePages, FitsPaW s e.2
  rip : s.rip.toNat < 2 ^ s.eaW

end Sys2Proof.Machine
end

