-- ==== Sys2Proof/Certificates/Slice0/Obligations.lean ====
section
/-! DEFINITION. The statements for the provers. Each one is about the machine, for every state that meets its
hypotheses. -/

open Sys2Proof Sys2Proof.Machine

/-! ### Fetch and decode -/

/-- A step runs the instruction that the bytes at `RIP` decode to, and adds nothing around it (30_encoding.md R60). -/
def Obligations.StepRunsDecodedInstruction : Prop :=
  ∀ (s : State) (i : Instr) (rest : List Byte),
    decode s.fetchBytes = .ok (i, rest) → i.WellFormed → step s = exec i s

/-- The words written out from the spec's encoding (30_encoding.md R60, R64, R67). -/
def Obligations.DecodesWrittenOutWords : Prop :=
  decode [0b00001111, 0b00000001, 0b11010111] = .ok (.edeccssa, []) ∧
    decodeTableWord 24 0xD7010F = some .edeccssa ∧
    decode [0x66, 0x0F, 0x01, 0xD7] = .error .prefixedForm ∧
    decode [0x0F, 0x01, 0xCF] = .error .otherInstruction

/-- The decoder accepts exactly the encodings, and leaves the bytes after them (30_encoding.md R60, R67). -/
def Obligations.DecoderAcceptsExactlyTheEncodings : Prop :=
  ∀ (bytes : List Byte) (i : Instr) (rest : List Byte),
    decode bytes = .ok (i, rest) ↔ i.WellFormed ∧ bytes = encode i ++ rest

/-- An instruction placed at `RIP` is what the next step fetches, with its leaf selected, and runs. That placing it sets
`EAX` too is the model's choice (log 2). -/
def Obligations.PlacedInstructionIsFetchedAndRun : Prop :=
  ∀ s : State,
    (s.withFetchWord 24 0xD7010F).fetchBytes = encode .edeccssa ∧
      (s.withFetchWord 24 0xD7010F).eax = 9 ∧
      step (s.withFetchWord 24 0xD7010F) = exec .edeccssa (s.withFetchWord 24 0xD7010F)

/-- 30_encoding.md R65: any other leaf number, and any other bytes, are refused and not faulted. -/
def Obligations.OtherLeavesAndBytesRefused : Prop :=
  (∀ s : State, s.eax ≠ 9 → exec .edeccssa s = .refused .otherLeaf) ∧
    ∀ s : State, (∀ rest, s.fetchBytes ≠ [0x0F, 0x01, 0xD7] ++ rest) → ∃ r, step s = .refused r

/-- 30_encoding.md R64: a prefixed form is refused. The numbers of the prefix bytes other than `66`, `F2` and `F3` are
the model's (log 12). -/
def Obligations.PrefixedFormsRefused : Prop :=
  ∀ (s : State) (b : Byte) (rest : List Byte),
    isPrefixByte b = true → s.fetchBytes = b :: rest → step s = .refused .prefixedForm

/-- 30_encoding.md R63, R68: without the feature flag, and in a processor mode in which `ENCLU` is not executable, the
leaf is refused. Which refusal is given where several of these premises fail is the model's order (log 14, log 15). -/
def Obligations.UnsupportedOrWrongModeRefused : Prop :=
  (∀ s : State, s.eax = 9 → s.cfg.edeccssaSupported = false → exec .edeccssa s = .refused .notSupported) ∧
    (∀ s : State, s.eax = 9 → s.cfg.edeccssaSupported = true →
      s.procMode.pe = false ∨ s.procMode.v86 = true ∨ s.procMode.smm = true ∨ s.procMode.enclaveExt = false ∨
        s.procMode.cpl ≠ 3 →
      exec .edeccssa s = .refused .invalidOpcodeMode) ∧
    ∀ s : State, s.eax = 9 → s.cfg.edeccssaSupported = true → s.procMode.invalidOpcode = false →
      s.procMode.pg = false ∨ s.procMode.ne = false → exec .edeccssa s = .refused .protectionMode

/-! ### The checks that need no address -/

/-- 40_edeccssa.md R71: outside an enclave the leaf raises `#GP(0)`, whatever the rest of the state holds. -/
def Obligations.OutsideEnclaveFaults : Prop :=
  ∀ s : State, LeafReady s → s.inEnclave = false → exec .edeccssa s = .fault .gp0

/-- 40_edeccssa.md R72: `CSSA = 0` raises `#GP(0)`, when L2 to L8 and L10 hold. That L9, whose addresses are those of
frame `CSSA - 1`, is not asked then is the model's reading (log 14). -/
def Obligations.ZeroCssaFaults : Prop :=
  ∀ (s : State) (v : EnclaveView), LeafReady s → s.inEnclave = true → EnclaveReady s v → LaunchReady s v →
    v.tcs.cssa = 0 → exec .edeccssa s = .fault .gp0

/-! ### Completion and what it writes -/

/-- 40_edeccssa.md R89: when every premise and every check holds, the leaf completes, and the next state is the old one
but for the writes of the commit, `RIP`, truncated as the model does (log 11), and the model's own counter of executions
(log 5). -/
def Obligations.CompletesWithEveryWrite : Prop :=
  ∀ (s : State) (v : EnclaveView) (pas : List Addr) (gprPa cetPa : Addr),
    Admitted s v →
    pas.length = npages s v →
    (∀ n pa, pas[n]? = some pa → RegPageUsable s v.owner (xsavePageLa s v n) pa) →
    RegPageUsable s v.owner (gprLa s v) gprPa →
    (s.mode64 = false → dsContains s.ds ((framePlan s.cfg v).gpr + s.cfg.gprsgxSize - 1) = true) →
    (cetOn s.cfg v.secs = true →
      CetPageUsable s v.owner (s.lin (eaPage (cetEntry v.tcs v.secs (v.tcs.cssa.toNat - 1)))) cetPa) →
    exec .edeccssa s = .next
      { s with
        tcss := assocPut s.tcss s.crTcsPa.toNat { v.tcs with cssa := v.tcs.cssa - 1 }
        crGprPa := gprPa
        crXsavePages := writeXsavePageRegs s.crXsavePages 0 pas
        crCetSaveAreaPa :=
          if cetOn s.cfg v.secs = true then
            cetPa + BitVec.ofNat 64 (cetEntry v.tcs v.secs (v.tcs.cssa.toNat - 1) % 4096)
          else s.crCetSaveAreaPa
        rip := BitVec.ofNat 64 ((s.rip.toNat + 3) % 2 ^ s.eaW)
        draws := s.draws + 1 }

/-- The leaf completes exactly when its premises hold, it is inside an enclave, `CSSA` is not 0 and every check of the
target frame passes (40_edeccssa.md R70 to R84). -/
def Obligations.CompletesExactlyWhenChecksPass : Prop :=
  ∀ s : State, (∃ t, exec .edeccssa s = .next t) ↔ ∃ v x, Admitted s v ∧ FrameUsable s v x

/-- The leaf is refused exactly when a launch premise fails: one of L2 to L4, or inside an enclave one of L5 to L8 and
L10, or with `CSSA` not 0 one of those on the target frame (70_reset_and_hazards.md R121; that the frame's premises are
asked only then is the model's reading, log 14). -/
def Obligations.RefusedExactlyWhenPremiseFails : Prop :=
  ∀ s : State, (∃ r, exec .edeccssa s = .refused r) ↔
    ¬ LeafReady s ∨ (s.inEnclave = true ∧
      ((¬ ∃ v, EnclaveReady s v) ∨ ∃ v, EnclaveReady s v ∧
        (¬ LaunchReady s v ∨ v.tcs.cssa ≠ 0 ∧ ¬ FrameReady s v)))

/-- 40_edeccssa.md R85: `CSSA` becomes `c - 1`, with no wrap. -/
def Obligations.DecrementsCssa : Prop :=
  ∀ (s : State) (v : EnclaveView) (x : Targets), Admitted s v → FrameUsable s v x →
    ∃ t, exec .edeccssa s = .next t ∧ s.cssa? = some v.tcs.cssa ∧ t.cssa? = some (v.tcs.cssa - 1) ∧
      (v.tcs.cssa - 1).toNat + 1 = v.tcs.cssa.toNat

/-- 40_edeccssa.md R86: `CR_GPR_PA` becomes the physical address of the first byte of the target frame's GPR area, the
one that the access check of R79 found. -/
def Obligations.GprPointerWritten : Prop :=
  ∀ (s : State) (v : EnclaveView) (x : Targets), Admitted s v → FrameUsable s v x →
    ∃ t, exec .edeccssa s = .next t ∧ s.accessCheckRW (gprLa s v) = .ok t.crGprPa

/-- 40_edeccssa.md R87: `CR_XSAVE_PAGE_n` becomes the physical address of page `P_n` for `n < NPAGES`, and is not
written for the others. -/
def Obligations.XsavePointersWritten : Prop :=
  ∀ (s : State) (v : EnclaveView) (x : Targets), Admitted s v → FrameUsable s v x →
    ∃ t, exec .edeccssa s = .next t ∧
      (∀ n < npages s v, s.accessCheckRW (xsavePageLa s v n) = .ok (xsavePageReg t.crXsavePages n)) ∧
      ∀ n, npages s v ≤ n → xsavePageReg t.crXsavePages n = xsavePageReg s.crXsavePages n

/-- 40_edeccssa.md R88: when `CETON`, `CR_CET_SAVE_AREA_PA` becomes the physical address of the CET save area, which is
that of its page plus the offset; otherwise it keeps its value. -/
def Obligations.CetPointerWritten : Prop :=
  ∀ (s : State) (v : EnclaveView) (x : Targets), Admitted s v → FrameUsable s v x →
    ∃ t, exec .edeccssa s = .next t ∧
      (cetOn s.cfg v.secs = true →
        s.accessCheckRW (s.lin (cetEntry v.tcs v.secs (v.tcs.cssa.toNat - 1))) = .ok t.crCetSaveAreaPa ∧
          ∃ pa, s.accessCheckRW (s.lin (eaPage (cetEntry v.tcs v.secs (v.tcs.cssa.toNat - 1)))) = .ok pa ∧
            t.crCetSaveAreaPa = pa + BitVec.ofNat 64 (eaOff (cetEntry v.tcs v.secs (v.tcs.cssa.toNat - 1)))) ∧
      (cetOn s.cfg v.secs = false → t.crCetSaveAreaPa = s.crCetSaveAreaPa)

/-- `RIP` is advanced by the length of the instruction, truncated to `EA_W` bits (10_state.md R12). -/
def Obligations.RipAdvancesByLength : Prop :=
  ∀ (s : State) (v : EnclaveView) (x : Targets), Admitted s v → FrameUsable s v x →
    ∃ t, exec .edeccssa s = .next t ∧ t.rip.toNat = (s.rip.toNat + 3) % 2 ^ (if s.mode64 = true then 64 else 32)

/-- 10_state.md R30, the frame of the leaf: when it gives a next state, everything but `RIP`, `CSSA` of the TCS at
`CR_TCS_PA`, `CR_GPR_PA`, the `CR_XSAVE_PAGE_n`, `CR_CET_SAVE_AREA_PA` (and the model's own counter, log 5) is as it
was: every byte of memory and of the text, every other TCS, the other fields of this one, every SECS and every EPCM
entry. -/
def Obligations.NothingElseIsWritten : Prop :=
  ∀ s t : State, exec .edeccssa s = .next t →
    t.rax = s.rax ∧ t.otherRegs = s.otherRegs ∧ t.rflags = s.rflags ∧ t.inEnclave = s.inEnclave ∧
      t.mode64 = s.mode64 ∧ t.procMode = s.procMode ∧ t.ds = s.ds ∧ t.crTcsPa = s.crTcsPa ∧
      t.crActiveSecs = s.crActiveSecs ∧ t.cfg = s.cfg ∧
      (∀ id, assocFind t.secss id = assocFind s.secss id) ∧
      (∀ pa, t.epcmEntry pa = s.epcmEntry pa) ∧
      (∀ page, assocFind t.access page = assocFind s.access page) ∧
      (∀ a, Memory.read t.mem a = Memory.read s.mem a) ∧
      (∀ a, Memory.read t.text a = Memory.read s.text a) ∧
      (∀ pa, pa ≠ s.crTcsPa.toNat → assocFind t.tcss pa = assocFind s.tcss pa) ∧
      ∃ tcs tcs', assocFind s.tcss s.crTcsPa.toNat = some tcs ∧ assocFind t.tcss s.crTcsPa.toNat = some tcs' ∧
        tcs' = { tcs with cssa := tcs'.cssa }

/-! ### The checks of the target frame -/

/-- The addresses of the target frame (40_edeccssa.md R73, R78, R81, R82). -/
def Obligations.TargetFrameAddresses : Prop :=
  ∀ (cfg : Params) (v : EnclaveView),
    (framePlan cfg v).ssa =
        v.tcs.ossa.toNat + v.secs.baseAddr.toNat + 4096 * v.secs.ssaFrameSize.toNat * (v.tcs.cssa.toNat - 1) ∧
      (framePlan cfg v).gpr = (framePlan cfg v).ssa + 4096 * v.secs.ssaFrameSize.toNat - cfg.gprsgxSize ∧
      (framePlan cfg v).cet =
        if cfg.cpuid12_1Eax6 = true ∧ (v.secs.shStkEn = true ∨ v.secs.endbrEn = true) then
          some (v.tcs.ocetssa.toNat + v.secs.baseAddr.toNat + (v.tcs.cssa.toNat - 1) * 16)
        else none

/-- The linear address of an effective address (20_memory.md R41): the address itself in 64-bit mode, and otherwise the
DS base plus the address, modulo `2^32`. The rule is the spec's import (log 9). -/
def Obligations.LinearAddressOfEffective : Prop :=
  ∀ (s : State) (x : Nat), x < 2 ^ s.eaW →
    (s.mode64 = true → (s.lin x).toNat = x) ∧ (s.mode64 = false → (s.lin x).toNat = (s.ds.base.toNat + x) % 2 ^ 32)

/-- An offset is in an expand-up DS segment when it does not exceed the limit (20_memory.md R41, its default; log 8). -/
def Obligations.ExpandUpSegmentContains : Prop :=
  ∀ (ds : DsSegment) (o : Nat), ds.expandUp = true → (dsContains ds o = true ↔ o ≤ ds.limit.toNat)

/-- The XSAVE pages visited (40_edeccssa.md R75): `P_n` begins `4096 * n` bytes from `TMP_SSA`, `NPAGES` is `TMP_XSIZE`
divided by 4096 and rounded up, and the pages below `NPAGES` are those that overlap the `TMP_XSIZE` bytes from `TMP_SSA`
on. -/
def Obligations.XsavePagesAreThoseThatOverlap : Prop :=
  (∀ ssa n : Nat, xsavePage ssa n = ssa + 4096 * n) ∧
    (∀ (s : State) (v : EnclaveView),
      npages s v = xsaveFrameSize s.cfg v.secs.xfrm / 4096 +
        if xsaveFrameSize s.cfg v.secs.xfrm % 4096 = 0 then 0 else 1) ∧
    ∀ (s : State) (v : EnclaveView) (n : Nat),
      n < npages s v ↔
        xsavePage (framePlan s.cfg v).ssa n < (framePlan s.cfg v).ssa + xsaveFrameSize s.cfg v.secs.xfrm

/-- The whole GPR area lies in one page, and ends where the frame ends (40_edeccssa.md R78). -/
def Obligations.GprAreaInOnePage : Prop :=
  ∀ (s : State) (v : EnclaveView), LaunchReady s v → FrameReady s v →
    eaPage (framePlan s.cfg v).gpr = eaPage ((framePlan s.cfg v).gpr + s.cfg.gprsgxSize - 1) ∧
      (framePlan s.cfg v).gpr + s.cfg.gprsgxSize =
        (framePlan s.cfg v).ssa + 4096 * v.secs.ssaFrameSize.toNat

/-- 40_edeccssa.md R76 (b) to (f): when the XSAVE pages before `P_n` are usable and `P_n` is accessible but fails an
EPCM check, the leaf raises `#PF` at `P_n`'s linear address, whatever the later pages. -/
def Obligations.FirstBadXsavePageFaults : Prop :=
  ∀ (s : State) (v : EnclaveView) (n : Nat) (pa : Addr), Admitted s v → n < npages s v →
    (∀ m < n, ∃ pa, RegPageUsable s v.owner (xsavePageLa s v m) pa) →
    s.accessCheckRW (xsavePageLa s v n) = .ok pa → ¬ RegPageUsable s v.owner (xsavePageLa s v n) pa →
    ∃ ec, exec .edeccssa s = .fault (.pf (xsavePageLa s v n) ec)

/-- 40_edeccssa.md R76 (a): when the XSAVE pages before `P_n` are usable and the access check of `P_n` delivers a fault,
the leaf raises that fault. -/
def Obligations.XsaveAccessFaultDelivered : Prop :=
  ∀ (s : State) (v : EnclaveView) (n : Nat) (f : Fault), Admitted s v → n < npages s v →
    (∀ m < n, ∃ pa, RegPageUsable s v.owner (xsavePageLa s v m) pa) →
    s.accessCheckRW (xsavePageLa s v n) = .error f → exec .edeccssa s = .fault f

/-- 40_edeccssa.md R79: when the XSAVE pages are usable and the GPR area is not, the leaf raises the fault of its access
check, or `#PF` at `DS:TMP_GPR`, whatever DS and the CET save page. -/
def Obligations.BadGprPageFaults : Prop :=
  ∀ (s : State) (v : EnclaveView), Admitted s v → (∃ pas, XsavePagesUsable s v pas) →
    (∀ f, s.accessCheckRW (gprLa s v) = .error f → exec .edeccssa s = .fault f) ∧
      ∀ pa, s.accessCheckRW (gprLa s v) = .ok pa → ¬ RegPageUsable s v.owner (gprLa s v) pa →
        ∃ ec, exec .edeccssa s = .fault (.pf (gprLa s v) ec)

/-- 40_edeccssa.md R80: outside 64-bit mode, once the GPR area is usable, a last byte that is not in DS raises
`#GP(0)`, whatever the CET save page. In 64-bit mode DS plays no part: there is no limit check, and the linear
address is the effective address (20_memory.md R41, log 9). -/
def Obligations.DsLimitCheck : Prop :=
  (∀ (s : State) (v : EnclaveView) (pa : Addr), Admitted s v → (∃ pas, XsavePagesUsable s v pas) →
      RegPageUsable s v.owner (gprLa s v) pa → s.mode64 = false →
      dsContains s.ds ((framePlan s.cfg v).gpr + s.cfg.gprsgxSize - 1) = false →
      exec .edeccssa s = .fault .gp0) ∧
    ∀ (s : State) (d : DsSegment), s.mode64 = true →
      exec .edeccssa { s with ds := d } = mapNext (fun t => { t with ds := d }) (exec .edeccssa s)

/-- 40_edeccssa.md R83: when `CETON` and all before it passes, a CET save page that is not usable (not a valid
`PT_SS_REST` page of the enclave, for one) raises the fault of its access check, or `#PF` at the page's address. -/
def Obligations.BadCetPageFaults : Prop :=
  ∀ (s : State) (v : EnclaveView) (gprPa : Addr) (area : Nat), Admitted s v → (∃ pas, XsavePagesUsable s v pas) →
    RegPageUsable s v.owner (gprLa s v) gprPa → DsLimitOk s v → (framePlan s.cfg v).cet = some area →
    (∀ f, s.accessCheckRW (s.lin (eaPage area)) = .error f → exec .edeccssa s = .fault f) ∧
      ∀ pa, s.accessCheckRW (s.lin (eaPage area)) = .ok pa →
        ¬ CetPageUsable s v.owner (s.lin (eaPage area)) pa →
        ∃ ec, exec .edeccssa s = .fault (.pf (s.lin (eaPage area)) ec)

/-- 60_exceptions.md R101: `#GP(0)` has no cause but the three of the leaf, and a `#GP(0)` that the access check itself
delivers (log 26). -/
def Obligations.GpCausesComplete : Prop :=
  ∀ s : State, exec .edeccssa s = .fault .gp0 →
    s.inEnclave = false ∨ s.cssa? = some 0 ∨
      (∃ v, Admitted s v ∧ s.mode64 = false ∧
        dsContains s.ds ((framePlan s.cfg v).gpr + s.cfg.gprsgxSize - 1) = false) ∨
      ∃ v la, Admitted s v ∧ Examined s v la ∧ s.accessCheckRW la = .error .gp0

/-- 60_exceptions.md R102: the address of every `#PF` is that of an examined page: an XSAVE page or the GPR area that is
not usable as a `PT_REG` page, or the CET save page, not usable as a `PT_SS_REST` page. -/
def Obligations.PfCausesComplete : Prop :=
  ∀ (s : State) (la : Addr) (ec : Nat), exec .edeccssa s = .fault (.pf la ec) →
    ∃ v, Admitted s v ∧
      ((∃ n < npages s v, la = xsavePageLa s v n ∧ ∀ pa, ¬ RegPageUsable s v.owner la pa) ∨
        (la = gprLa s v ∧ ∀ pa, ¬ RegPageUsable s v.owner la pa) ∨
        ∃ area, (framePlan s.cfg v).cet = some area ∧ la = s.lin (eaPage area) ∧
          ∀ pa, ¬ CetPageUsable s v.owner la pa)

/-- The access check answers by pages (20_memory.md R42 clauses 2 and 4): two addresses of one page both fault, or
translate to one physical page at their own offsets; a page fault is at the address checked. -/
def Obligations.AccessCheckIsPageGranular : Prop :=
  (∀ (s : State) (la la' : Addr), pageOf la = pageOf la' →
      (∃ f f', s.accessCheckRW la = .error f ∧ s.accessCheckRW la' = .error f') ∨
        ∃ pa pa', s.accessCheckRW la = .ok pa ∧ s.accessCheckRW la' = .ok pa' ∧
          pageOf pa = pageOf pa' ∧ offOf pa = offOf la ∧ offOf pa' = offOf la') ∧
    ∀ (s : State) (la la' : Addr) (ec : Nat), s.accessCheckRW la = .error (.pf la' ec) → la' = la

/-! ### The premises that the model refuses without -/

/-- 70_reset_and_hazards.md R121 L7, L8 and L10: inside an enclave a `BASEADDR` or `OSSA` that is not page aligned, a
`GPRSGX_SIZE` outside 1 to 4096, and outside 64-bit mode a `BASEADDR`, `OSSA` or `OCETSSA` not below `2^32` are refused,
whatever `CSSA` and with or without CET. That they are refused with `CSSA = 0` too is the model's reading of R121 (log 14),
and which refusal is given where several fail is the model's order (log 17). -/
def Obligations.LaunchPremisesRefused : Prop :=
  (∀ (s : State) (v : EnclaveView), LeafReady s → s.inEnclave = true → EnclaveReady s v →
      v.secs.baseAddr.toNat % 4096 ≠ 0 ∨ v.tcs.ossa.toNat % 4096 ≠ 0 → exec .edeccssa s = .refused .unaligned) ∧
    (∀ (s : State) (v : EnclaveView), LeafReady s → s.inEnclave = true → EnclaveReady s v →
      v.secs.baseAddr.toNat % 4096 = 0 → v.tcs.ossa.toNat % 4096 = 0 →
      s.cfg.gprsgxSize < 1 ∨ 4096 < s.cfg.gprsgxSize → exec .edeccssa s = .refused .gprAreaSize) ∧
    ∀ (s : State) (v : EnclaveView), LeafReady s → s.inEnclave = true → EnclaveReady s v →
      v.secs.baseAddr.toNat % 4096 = 0 → v.tcs.ossa.toNat % 4096 = 0 → 1 ≤ s.cfg.gprsgxSize → s.cfg.gprsgxSize ≤ 4096 →
      xsaveFrameSize s.cfg v.secs.xfrm % 4096 ≠ 0 → s.mode64 = false →
      2 ^ 32 ≤ v.secs.baseAddr.toNat ∨ 2 ^ 32 ≤ v.tcs.ossa.toNat ∨ 2 ^ 32 ≤ v.tcs.ocetssa.toNat →
      exec .edeccssa s = .refused .addressOutOfRange

/-- 40_edeccssa.md R75, 70_reset_and_hazards.md R121 L8: a size of the XSAVE area that is a multiple of 4096 is refused,
whatever `CSSA`, when the premises before it hold. That it is refused with `CSSA = 0` too is the model's reading of R121
(log 14): the assembled listing of 40_edeccssa.md has the `#GP(0)` of R72 first. Which refusal is given where several fail
is the model's order (log 17). -/
def Obligations.XsizePageMultipleRefused : Prop :=
  ∀ (s : State) (v : EnclaveView), LeafReady s → s.inEnclave = true → EnclaveReady s v → v.secs.baseAddr.toNat % 4096 = 0 → v.tcs.ossa.toNat % 4096 = 0 →
    1 ≤ s.cfg.gprsgxSize → s.cfg.gprsgxSize ≤ 4096 → xsaveFrameSize s.cfg v.secs.xfrm % 4096 = 0 →
    exec .edeccssa s = .refused .xsizePageMultiple

/-- 40_edeccssa.md R92: when one of the listed addresses is outside `[0, 2^EA_W)` and the premises before it hold, the
leaf is refused. Which refusal is given where several fail is the model's order (log 17). -/
def Obligations.AddressOutOfRangeRefused : Prop :=
  ∀ (s : State) (v : EnclaveView), LeafReady s → s.inEnclave = true → EnclaveReady s v → v.tcs.cssa ≠ 0 →
    targetFrame v.tcs ∉ v.tcs.framesInUse → v.secs.baseAddr.toNat % 4096 = 0 → v.tcs.ossa.toNat % 4096 = 0 →
    1 ≤ s.cfg.gprsgxSize → s.cfg.gprsgxSize ≤ 4096 → xsaveFrameSize s.cfg v.secs.xfrm % 4096 ≠ 0 →
    (2 ^ s.eaW ≤ (framePlan s.cfg v).ssa ∨
      (∃ n < npages s v, 2 ^ s.eaW ≤ xsavePage (framePlan s.cfg v).ssa n + 4095) ∨
      (framePlan s.cfg v).ssa + 4096 * v.secs.ssaFrameSize.toNat < s.cfg.gprsgxSize ∨
      2 ^ s.eaW ≤ (framePlan s.cfg v).gpr ∨
      2 ^ s.eaW ≤ (framePlan s.cfg v).gpr + s.cfg.gprsgxSize - 1 ∨
      (cetOn s.cfg v.secs = true ∧ 2 ^ s.eaW ≤ cetEntry v.tcs v.secs (v.tcs.cssa.toNat - 1) + 15)) →
    exec .edeccssa s = .refused .addressOutOfRange

/-! ### What the outcome does not depend on -/

/-- The leaf reads no general register but `EAX`, no flag, no byte of memory (10_state.md R11, R13; 20_memory.md R48), and
not the old `CR_GPR_PA`, `CR_XSAVE_PAGE_n` and `CR_CET_SAVE_AREA_PA` (10_state.md R20 to R22): with other values there, the
outcome is the same but for those values, of which a register that the leaf does not write keeps its own. -/
def Obligations.UnreadStateDoesNotMatter : Prop :=
  (∀ (s : State) (regs : List Nat) (flags : Nat) (mem text : Memory),
      exec .edeccssa { s with otherRegs := regs, rflags := flags, mem := mem, text := text } =
        mapNext (fun t => { t with otherRegs := regs, rflags := flags, mem := mem, text := text })
          (exec .edeccssa s)) ∧
    (∀ (s : State) (pa : Addr), exec .edeccssa { s with crGprPa := pa } = exec .edeccssa s) ∧
    ∀ (s : State) (regs : Assoc Addr) (cetPa : Addr),
      (∀ f, exec .edeccssa { s with crXsavePages := regs, crCetSaveAreaPa := cetPa } = .fault f ↔
        exec .edeccssa s = .fault f) ∧
      (∀ r, exec .edeccssa { s with crXsavePages := regs, crCetSaveAreaPa := cetPa } = .refused r ↔
        exec .edeccssa s = .refused r) ∧
      ∀ t, exec .edeccssa s = .next t →
        ∃ t', exec .edeccssa { s with crXsavePages := regs, crCetSaveAreaPa := cetPa } = .next t' ∧
          t' = { t with crXsavePages := t'.crXsavePages, crCetSaveAreaPa := t'.crCetSaveAreaPa } ∧
          (∀ n, xsavePageReg t'.crXsavePages n = xsavePageReg t.crXsavePages n ∨
            (xsavePageReg t.crXsavePages n = xsavePageReg s.crXsavePages n ∧
              xsavePageReg t'.crXsavePages n = xsavePageReg regs n)) ∧
          (t'.crCetSaveAreaPa = t.crCetSaveAreaPa ∨
            (t.crCetSaveAreaPa = s.crCetSaveAreaPa ∧ t'.crCetSaveAreaPa = cetPa))

/-- The upper half of `RAX` plays no part (10_state.md R10, D2; the model's choice where U18 leaves two, log 13). -/
def Obligations.UpperHalfOfRaxIgnored : Prop :=
  ∀ (s : State) (rax : BitVec 64), rax.setWidth 32 = s.eax →
    exec .edeccssa { s with rax := rax } = mapNext (fun t => { t with rax := rax }) (exec .edeccssa s)

/-- When `CETON` is false the leaf reads no `OCETSSA` (40_edeccssa.md R81): with another value there, the outcome is the
same but for that value. Outside 64-bit mode both values meet the launch premise on it (70_reset_and_hazards.md R121
L10). -/
def Obligations.CetOffReadsNoOcetssa : Prop :=
  ∀ (s : State) (v : EnclaveView) (x : BitVec 64), EnclaveReady s v → cetOn s.cfg v.secs = false →
    (s.mode64 = false → v.tcs.ocetssa.toNat < 2 ^ 32 ∧ x.toNat < 2 ^ 32) →
    exec .edeccssa { s with tcss := assocPut s.tcss s.crTcsPa.toNat { v.tcs with ocetssa := x } } =
      mapNext
        (fun t => { t with
          tcss := assocPut s.tcss s.crTcsPa.toNat { v.tcs with ocetssa := x, cssa := v.tcs.cssa - 1 } })
        (exec .edeccssa s)

/-- The leaf examines no page but the XSAVE pages, the GPR area's page and, when `CETON`, the CET save page, and reads
the EPCM entry of no other page but the TCS's (40_edeccssa.md R91): with other answers of the access check and other
EPCM entries elsewhere, the outcome is the same but for those. -/
def Obligations.OnlyExaminedPagesMatter : Prop :=
  ∀ (s : State) (v : EnclaveView) (access : Assoc PageAccess) (epcm : Assoc EpcmEntry), EnclaveReady s v →
    assocFind epcm (pageNo s.crTcsPa) = s.epcmEntry s.crTcsPa →
    (∀ la, Examined s v la →
      assocFind access (pageNo la) = assocFind s.access (pageNo la) ∧
        ∀ pa, s.accessCheckRW la = .ok pa → assocFind epcm (pageNo pa) = s.epcmEntry pa) →
    exec .edeccssa { s with access := access, epcm := epcm } =
      mapNext (fun t => { t with access := access, epcm := epcm }) (exec .edeccssa s)

/-! ### Invariants and runs -/

/-- The invariant holds at reset, in the values the model gives it (log 1). -/
def Obligations.ResetMeetsTheInvariant : Prop := State.reset.Inv

/-- Every step keeps the invariant: sparse data stays in canonical form, the `CR_` registers hold physical addresses of
at most `PA_W` bits, `RIP` at most `EA_W` bits (10_state.md R12, R17, R20 to R22). The canonical forms are the
model's (log 20, log 22). -/
def Obligations.EveryStepKeepsTheInvariant : Prop :=
  ∀ s t : State, s.Inv → step s = .next t → t.Inv

/-- Along every run `CSSA` falls by one at each execution, and never wraps (40_edeccssa.md R85, 60_exceptions.md
R115). -/
def Obligations.RunCountsCssaDown : Prop :=
  ∀ (k : Nat) (s t : State), runOf (k + 1) s = .next t →
    ∃ c c', s.cssa? = some c ∧ t.cssa? = some c' ∧ c'.toNat + (k + 1) = c.toNat

/-- No run of more executions than `CSSA` has frames ends well (40_edeccssa.md R72, 60_exceptions.md R115). -/
def Obligations.NoSafeRunLongerThanCssa : Prop :=
  ∀ (k : Nat) (s : State) (c : BitVec 32), s.cssa? = some c → c.toNat < k → ¬ SafeRun k s

/-- A run of `k` executions completes and pops `k` frames when, for each of them, the instruction stands at `RIP` and
the frame it targets is usable (60_exceptions.md R115, 70_reset_and_hazards.md R122). -/
def Obligations.RunPopsKFrames : Prop :=
  ∀ (k : Nat) (s : State) (tcs : Tcs), assocFind s.tcss s.crTcsPa.toNat = some tcs →
    (∀ i < k, (s.popped tcs i).fetchBytes = encode .edeccssa ∧
      ∃ v x, Admitted (s.popped tcs i) v ∧ FrameUsable (s.popped tcs i) v x) →
    ∃ t, runOf k s = .next t ∧ t.cssa? = some (tcs.cssa - BitVec.ofNat 32 k)

/-- No run changes the parameters, the text, memory, the SECSs, the EPCM, the access check's answers, DS, the modes, or
whether the processor is in an enclave (10_state.md R30, 00_scope.md R5). -/
def Obligations.RunsLeaveTheRestAlone : Prop :=
  ∀ (k : Nat) (s t : State), runOf k s = .next t →
    t.cfg = s.cfg ∧ t.text = s.text ∧ t.mem = s.mem ∧ t.secss = s.secss ∧ t.epcm = s.epcm ∧ t.access = s.access ∧
      t.ds = s.ds ∧ t.mode64 = s.mode64 ∧ t.procMode = s.procMode ∧ t.inEnclave = s.inEnclave ∧ t.rax = s.rax

/-- After the last instruction of a program the next step is refused, where no byte stands at the new `RIP`
(60_exceptions.md R115 (c)). -/
def Obligations.ProgramEndIsRefused : Prop :=
  ∀ s t : State, step s = .next t → Memory.read t.text (t.fetchAddr 0) = none → step t = .refused .noInstruction

/-- The state that stands for reset is outside an enclave, so an `ENCLU[EDECCSSA]` placed there raises `#GP(0)`
(70_reset_and_hazards.md R120; the values at reset are the model's, log 1 and log 2). -/
def Obligations.ResetIsOutsideAnEnclave : Prop :=
  State.reset.inEnclave = false ∧ step (State.reset.withFetchWord 24 0xD7010F) = .fault .gp0

/-- The concurrency tables (20_memory.md R52, R53), which no step reads (log 19): the access to the TCS page is Shared;
the header of the second table names three groups of leaves, each of these leaves and no other; with each group the access
is Concurrent; no cell says what happens on a conflict. -/
def Obligations.ConcurrencyTablesAsGiven : Prop :=
  baseConcurrency.access = .shared ∧ baseConcurrency.onConflict = none ∧
    (∀ l : OtherLeaf, leafGroup l = .accept ↔
      l = .eaccept ∨ l = .eacceptcopy ∨ l = .emodpe ∨ l = .emodpr ∨ l = .emodt) ∧
    (∀ l : OtherLeaf, leafGroup l = .build ↔ l = .eadd ∨ l = .eextend ∨ l = .einit) ∧
    (∀ l : OtherLeaf, leafGroup l = .track ↔ l = .etrack ∨ l = .etrackc) ∧
    ∀ g : LeafGroup, (additionalConcurrency g).access = .concurrent ∧ (additionalConcurrency g).onConflict = none
end

