-- ==== Sys2Proof/Laws/Assoc.lean ====
section
/-! SUPPORT. The laws of sparse data: a write is read back, leaves every other key alone, and keeps the canonical form.
The laws of reading hold of every list; only those of the canonical form ask for it. -/
namespace Sys2Proof.Machine

variable {α : Type}

@[simp] theorem assocFind_put_self (l : Assoc α) (j : Nat) (x : α) : assocFind (assocPut l j x) j = some x := by
  induction l with
  | nil => simp [assocPut, assocFind]
  | cons e rest ih =>
    obtain ⟨k, v⟩ := e
    unfold assocPut
    split
    · simp [assocFind]
    · split
      · simp [assocFind]
      · next h => simp [assocFind, h, ih]

theorem assocFind_put_other (l : Assoc α) {i j : Nat} (x : α) (h : i ≠ j) :
    assocFind (assocPut l j x) i = assocFind l i := by
  induction l with
  | nil => simp [assocPut, assocFind, h]
  | cons e rest ih =>
    obtain ⟨k, v⟩ := e
    unfold assocPut
    split
    · simp [assocFind, h]
    · split
      · next hjk => subst hjk; simp [assocFind, h]
      · simp [assocFind, ih]

/-- Of two writes at one key the second stands. -/
@[simp] theorem assocPut_put (l : Assoc α) (j : Nat) (x y : α) : assocPut (assocPut l j x) j y = assocPut l j y := by
  induction l with
  | nil => simp [assocPut]
  | cons e rest ih =>
    obtain ⟨k, v⟩ := e
    by_cases hlt : j < k
    · simp [assocPut, hlt]
    · by_cases heq : j = k
      · simp [assocPut, heq]
      · simp [assocPut, hlt, heq, ih]

@[simp] theorem assocFind_erase_self (l : Assoc α) (j : Nat) : assocFind (assocErase l j) j = none := by
  induction l with
  | nil => rfl
  | cons e rest ih =>
    obtain ⟨k, v⟩ := e
    unfold assocErase
    split
    · exact ih
    · next h => simp [assocFind, h, ih]

theorem assocFind_erase_other (l : Assoc α) {i j : Nat} (h : i ≠ j) :
    assocFind (assocErase l j) i = assocFind l i := by
  induction l with
  | nil => rfl
  | cons e rest ih =>
    obtain ⟨k, v⟩ := e
    unfold assocErase
    split
    · next hjk => subst hjk; simp [assocFind, h, ih]
    · simp [assocFind, ih]

theorem assocFind_mem {l : Assoc α} {j : Nat} {x : α} (h : assocFind l j = some x) : (j, x) ∈ l := by
  induction l with
  | nil => simp [assocFind] at h
  | cons e rest ih =>
    obtain ⟨k, v⟩ := e
    unfold assocFind at h
    split at h
    · next hjk => simp_all
    · simp [ih h]

theorem mem_of_mem_assocPut {l : Assoc α} {j : Nat} {x : α} {e : Nat × α} (h : e ∈ assocPut l j x) :
    e = (j, x) ∨ e ∈ l := by
  induction l with
  | nil => simpa [assocPut] using h
  | cons e' rest ih =>
    obtain ⟨k, v⟩ := e'
    unfold assocPut at h
    split at h
    · simpa using h
    · split at h
      · rcases List.mem_cons.1 h with h | h
        · exact .inl h
        · exact .inr (List.mem_cons_of_mem _ h)
      · rcases List.mem_cons.1 h with h | h
        · exact .inr (by simp [h])
        · rcases ih h with h | h
          · exact .inl h
          · exact .inr (List.mem_cons_of_mem _ h)

theorem mem_of_mem_assocErase {l : Assoc α} {j : Nat} {e : Nat × α} (h : e ∈ assocErase l j) : e ∈ l := by
  induction l with
  | nil => simp [assocErase] at h
  | cons e' rest ih =>
    obtain ⟨k, v⟩ := e'
    unfold assocErase at h
    split at h
    · exact List.mem_cons_of_mem _ (ih h)
    · rcases List.mem_cons.1 h with h | h
      · simp [h]
      · exact List.mem_cons_of_mem _ (ih h)

theorem assocRisingFrom_cons {lo k : Nat} {v : α} {rest : Assoc α} :
    assocRisingFrom lo ((k, v) :: rest) = true ↔ lo ≤ k ∧ assocRisingFrom (k + 1) rest = true := by
  simp [assocRisingFrom]

theorem assocRisingFrom_mono {l : Assoc α} {lo lo' : Nat} (hlo : lo' ≤ lo) (h : assocRisingFrom lo l = true) :
    assocRisingFrom lo' l = true := by
  cases l with
  | nil => rfl
  | cons e rest =>
    obtain ⟨k, v⟩ := e
    rw [assocRisingFrom_cons] at h ⊢
    exact ⟨by omega, h.2⟩

theorem assocRisingFrom_put {l : Assoc α} {lo j : Nat} (x : α) (hj : lo ≤ j) (h : assocRisingFrom lo l = true) :
    assocRisingFrom lo (assocPut l j x) = true := by
  induction l generalizing lo with
  | nil => simp [assocPut, assocRisingFrom, hj]
  | cons e rest ih =>
    obtain ⟨k, v⟩ := e
    rw [assocRisingFrom_cons] at h
    unfold assocPut
    split
    · next hjk => exact assocRisingFrom_cons.2 ⟨hj, assocRisingFrom_cons.2 ⟨by omega, h.2⟩⟩
    · split
      · next hjk => subst hjk; exact assocRisingFrom_cons.2 ⟨hj, h.2⟩
      · exact assocRisingFrom_cons.2 ⟨h.1, ih (by omega) h.2⟩

theorem assocRisingFrom_erase {l : Assoc α} {lo j : Nat} (h : assocRisingFrom lo l = true) :
    assocRisingFrom lo (assocErase l j) = true := by
  induction l generalizing lo with
  | nil => rfl
  | cons e rest ih =>
    obtain ⟨k, v⟩ := e
    rw [assocRisingFrom_cons] at h
    unfold assocErase
    split
    · exact ih (assocRisingFrom_mono (by omega) h.2)
    · exact assocRisingFrom_cons.2 ⟨h.1, ih h.2⟩

/-- A write keeps the canonical form of the keys. -/
theorem assocRising_put {l : Assoc α} (j : Nat) (x : α) (h : assocRising l = true) :
    assocRising (assocPut l j x) = true :=
  assocRisingFrom_put x (Nat.zero_le j) h

/-- Removing a key keeps the canonical form of the keys. -/
theorem assocRising_erase {l : Assoc α} (j : Nat) (h : assocRising l = true) : assocRising (assocErase l j) = true :=
  assocRisingFrom_erase h

/-- A key below all the listed ones is not listed. -/
theorem assocRisingFrom_find_lt {l : Assoc α} {lo j : Nat} (h : assocRisingFrom lo l = true) (hj : j < lo) :
    assocFind l j = none := by
  induction l generalizing lo with
  | nil => rfl
  | cons e rest ih =>
    obtain ⟨k, v⟩ := e
    rw [assocRisingFrom_cons] at h
    have hne : j ≠ k := by omega
    simp [assocFind, hne, ih h.2 (by omega)]

end Sys2Proof.Machine
end

