-- ==== Sys2Proof/Laws/Memory.lean ====
section
/-! SUPPORT. The laws of memory: a byte written is read back, every other byte is as it was, and every operation keeps
the canonical form. -/
namespace Sys2Proof.Machine

@[simp] theorem Memory.read_write_self (m : Memory) (a : Addr) (b : Byte) : (m.write a b).read a = some b := by
  simp [Memory.read, Memory.write, memoryUnlisted]

theorem Memory.read_write_other (m : Memory) {a a' : Addr} (b : Byte) (h : a' ≠ a) :
    (m.write a b).read a' = m.read a' := by
  have hne : a'.toNat ≠ a.toNat := fun hn => h (BitVec.eq_of_toNat_eq hn)
  simp [Memory.read, Memory.write, memoryUnlisted, assocFind_put_other _ _ hne]

/-- A write keeps the canonical form. -/
theorem Memory.wf_write {m : Memory} (a : Addr) (b : Byte) (h : m.wf = true) : (m.write a b).wf = true := by
  simp only [Memory.wf, Bool.and_eq_true, List.all_eq_true] at h ⊢
  have hw : m.write a b = assocPut m a.toNat b := by simp [Memory.write, memoryUnlisted]
  rw [hw]
  refine ⟨assocRising_put _ _ h.1, fun e he => ?_⟩
  rcases mem_of_mem_assocPut he with rfl | he
  · simp [memoryUnlisted, a.isLt]
  · exact h.2 e he

/-- Writing several bytes keeps the canonical form. -/
theorem Memory.wf_writeRun {m : Memory} (addr : Nat → Addr) (i : Nat) (bytes : List Byte) (h : m.wf = true) :
    (writeRun m addr i bytes).wf = true := by
  induction bytes generalizing m i with
  | nil => exact h
  | cons b rest ih => exact ih (i + 1) (Memory.wf_write (addr i) b h)

/-- The bytes of a run written are all that changes. -/
theorem Memory.read_writeRun_other (m : Memory) (addr : Nat → Addr) (i : Nat) (bytes : List Byte) (a : Addr)
    (h : ∀ k, i ≤ k → k < i + bytes.length → a ≠ addr k) : (writeRun m addr i bytes).read a = m.read a := by
  induction bytes generalizing m i with
  | nil => rfl
  | cons b rest ih =>
    have ha : a ≠ addr i := h i le_rfl (by simp)
    rw [writeRun, ih _ _ (fun k h1 h2 => h k (by omega) (by simp; omega)), Memory.read_write_other _ _ ha]

/-- What `readRun` reads is at most `k` bytes. -/
theorem readRun_length_le (m : Memory) (addr : Nat → Addr) (i k : Nat) : (readRun m addr i k).length ≤ k := by
  induction k generalizing i with
  | zero => simp [readRun]
  | succ k ih =>
    unfold readRun
    split
    · simp
    · simpa using ih (i + 1)

end Sys2Proof.Machine
end

