-- ==== Sys2Proof/Laws/Operands.lean ====
section
/-! SUPPORT. The laws of the address forms: pages and offsets as arithmetic on natural numbers, and linear addresses
within their width. -/
namespace Sys2Proof.Machine

theorem pageMask_getLsbD : ∀ i : Fin 64, (~~~(0xFFF#64)).getLsbD i.val = decide (12 ≤ i.val) := by decide

/-- Clearing bits 11:0 rounds down to a multiple of 4096. -/
theorem pageOf_toNat (a : Addr) : (pageOf a).toNat = a.toNat / 4096 * 4096 := by
  have hshift : pageOf a = (a >>> 12) <<< 12 := by
    apply BitVec.eq_of_getLsbD_eq
    intro i hi
    have hm := pageMask_getLsbD ⟨i, hi⟩
    simp only at hm
    simp only [pageOf, BitVec.getLsbD_and, hm, BitVec.getLsbD_shiftLeft, BitVec.getLsbD_ushiftRight]
    by_cases h : i < 12
    · simp [h]
    · simp [h, hi, show 12 ≤ i by omega, show 12 + (i - 12) = i by omega]
  have := a.isLt
  rw [hshift]
  simp only [BitVec.toNat_shiftLeft, BitVec.toNat_ushiftRight, Nat.shiftLeft_eq, Nat.shiftRight_eq_div_pow]
  omega

/-- An address is the start of its page and its offset there. -/
theorem pageOf_toNat_add_offOf (a : Addr) : (pageOf a).toNat + offOf a = a.toNat := by
  rw [pageOf_toNat, offOf, pageSize]
  omega

/-- Two addresses are of one page exactly when their page numbers agree. -/
theorem pageOf_eq_iff {a b : Addr} : pageOf a = pageOf b ↔ pageNo a = pageNo b := by
  simp only [← BitVec.toNat_inj, pageOf_toNat, pageNo, pageSize]
  omega

theorem physAddr_toNat {frame : BitVec 52} {o : Nat} (h : o < 4096) :
    (physAddr frame o).toNat = frame.toNat * 4096 + o := by
  have := frame.isLt
  simp only [physAddr, pageSize, BitVec.toNat_ofNat]
  omega

theorem pageNo_physAddr {frame : BitVec 52} {o : Nat} (h : o < 4096) : pageNo (physAddr frame o) = frame.toNat := by
  rw [pageNo, physAddr_toNat h, pageSize]
  omega

theorem offOf_physAddr {frame : BitVec 52} {o : Nat} (h : o < 4096) : offOf (physAddr frame o) = o := by
  rw [offOf, physAddr_toNat h, pageSize]
  omega

theorem offOf_lt (a : Addr) : offOf a < 4096 := by
  rw [offOf, pageSize]
  omega

/-- The linear address of an effective address in range (20_memory.md R41). -/
theorem lin_toNat (s : State) {x : Nat} (h : x < 2 ^ s.eaW) :
    (s.lin x).toNat = if s.mode64 = true then x else (s.ds.base.toNat + x) % 2 ^ 32 := by
  unfold State.eaW at h
  unfold State.lin
  cases hm : s.mode64
  · simp
    omega
  · simp [hm] at h ⊢
    omega

/-- The start of the target frame is page aligned when `BASEADDR` and `OSSA` are (20_memory.md R47). -/
theorem ssaFrame_aligned {tcs : Tcs} {secs : Secs} (i : Nat) (hb : secs.baseAddr.toNat % 4096 = 0)
    (ho : tcs.ossa.toNat % 4096 = 0) : ssaFrame tcs secs i % 4096 = 0 := by
  unfold ssaFrame pageSize
  rw [Nat.mul_assoc, Nat.add_mul_mod_self_left]
  omega

end Sys2Proof.Machine
end

