-- ==== Sys2Proof/Laws/State.lean ====
section
/-! SUPPORT. One lemma per field per update of the state: the commit of the leaf, bytes placed in the text, and the
selection of the leaf. -/
namespace Sys2Proof.Machine

variable (s : State)

/-! ### The commit (40_edeccssa.md R85 to R89) -/

@[simp] theorem State.complete_rax (t : Tcs) (x : Targets) :
    (s.complete t x).rax = s.rax := rfl
@[simp] theorem State.complete_otherRegs (t : Tcs) (x : Targets) :
    (s.complete t x).otherRegs = s.otherRegs := rfl
@[simp] theorem State.complete_rip (t : Tcs) (x : Targets) :
    (s.complete t x).rip = s.nextRip := rfl
@[simp] theorem State.complete_rflags (t : Tcs) (x : Targets) :
    (s.complete t x).rflags = s.rflags := rfl
@[simp] theorem State.complete_inEnclave (t : Tcs) (x : Targets) :
    (s.complete t x).inEnclave = s.inEnclave := rfl
@[simp] theorem State.complete_mode64 (t : Tcs) (x : Targets) :
    (s.complete t x).mode64 = s.mode64 := rfl
@[simp] theorem State.complete_procMode (t : Tcs) (x : Targets) :
    (s.complete t x).procMode = s.procMode := rfl
@[simp] theorem State.complete_ds (t : Tcs) (x : Targets) :
    (s.complete t x).ds = s.ds := rfl
@[simp] theorem State.complete_crTcsPa (t : Tcs) (x : Targets) :
    (s.complete t x).crTcsPa = s.crTcsPa := rfl
@[simp] theorem State.complete_crActiveSecs (t : Tcs) (x : Targets) :
    (s.complete t x).crActiveSecs = s.crActiveSecs := rfl
@[simp] theorem State.complete_crGprPa (t : Tcs) (x : Targets) :
    (s.complete t x).crGprPa = x.gpr := rfl
@[simp] theorem State.complete_crXsavePages (t : Tcs) (x : Targets) :
    (s.complete t x).crXsavePages = writeXsavePageRegs s.crXsavePages 0 x.xsave := rfl
@[simp] theorem State.complete_crCetSaveAreaPa (t : Tcs) (x : Targets) :
    (s.complete t x).crCetSaveAreaPa = x.cet.getD s.crCetSaveAreaPa := rfl
@[simp] theorem State.complete_tcss (t : Tcs) (x : Targets) :
    (s.complete t x).tcss = assocPut s.tcss s.crTcsPa.toNat t.decrementCssa := rfl
@[simp] theorem State.complete_secss (t : Tcs) (x : Targets) :
    (s.complete t x).secss = s.secss := rfl
@[simp] theorem State.complete_epcm (t : Tcs) (x : Targets) :
    (s.complete t x).epcm = s.epcm := rfl
@[simp] theorem State.complete_access (t : Tcs) (x : Targets) :
    (s.complete t x).access = s.access := rfl
@[simp] theorem State.complete_text (t : Tcs) (x : Targets) :
    (s.complete t x).text = s.text := rfl
@[simp] theorem State.complete_mem (t : Tcs) (x : Targets) :
    (s.complete t x).mem = s.mem := rfl
@[simp] theorem State.complete_cfg (t : Tcs) (x : Targets) :
    (s.complete t x).cfg = s.cfg := rfl
@[simp] theorem State.complete_draws (t : Tcs) (x : Targets) :
    (s.complete t x).draws = s.draws + 1 := rfl
@[simp] theorem State.complete_eaW (t : Tcs) (x : Targets) : (s.complete t x).eaW = s.eaW := rfl
@[simp] theorem State.complete_eax (t : Tcs) (x : Targets) : (s.complete t x).eax = s.eax := rfl
@[simp] theorem State.complete_lin (t : Tcs) (x : Targets) (a : Nat) : (s.complete t x).lin a = s.lin a := rfl
@[simp] theorem State.complete_epcmEntry (t : Tcs) (x : Targets) (a : Addr) :
    (s.complete t x).epcmEntry a = s.epcmEntry a := rfl

/-! ### Bytes placed in the text -/

@[simp] theorem State.placeBytes_rax (bytes : List Byte) : (s.placeBytes bytes).rax = s.rax := rfl
@[simp] theorem State.placeBytes_otherRegs (bytes : List Byte) : (s.placeBytes bytes).otherRegs = s.otherRegs := rfl
@[simp] theorem State.placeBytes_rip (bytes : List Byte) : (s.placeBytes bytes).rip = s.rip := rfl
@[simp] theorem State.placeBytes_rflags (bytes : List Byte) : (s.placeBytes bytes).rflags = s.rflags := rfl
@[simp] theorem State.placeBytes_inEnclave (bytes : List Byte) : (s.placeBytes bytes).inEnclave = s.inEnclave := rfl
@[simp] theorem State.placeBytes_mode64 (bytes : List Byte) : (s.placeBytes bytes).mode64 = s.mode64 := rfl
@[simp] theorem State.placeBytes_procMode (bytes : List Byte) : (s.placeBytes bytes).procMode = s.procMode := rfl
@[simp] theorem State.placeBytes_ds (bytes : List Byte) : (s.placeBytes bytes).ds = s.ds := rfl
@[simp] theorem State.placeBytes_crTcsPa (bytes : List Byte) : (s.placeBytes bytes).crTcsPa = s.crTcsPa := rfl
@[simp] theorem State.placeBytes_crActiveSecs (bytes : List Byte) : (s.placeBytes bytes).crActiveSecs = s.crActiveSecs := rfl
@[simp] theorem State.placeBytes_crGprPa (bytes : List Byte) : (s.placeBytes bytes).crGprPa = s.crGprPa := rfl
@[simp] theorem State.placeBytes_crXsavePages (bytes : List Byte) : (s.placeBytes bytes).crXsavePages = s.crXsavePages := rfl
@[simp] theorem State.placeBytes_crCetSaveAreaPa (bytes : List Byte) : (s.placeBytes bytes).crCetSaveAreaPa = s.crCetSaveAreaPa := rfl
@[simp] theorem State.placeBytes_tcss (bytes : List Byte) : (s.placeBytes bytes).tcss = s.tcss := rfl
@[simp] theorem State.placeBytes_secss (bytes : List Byte) : (s.placeBytes bytes).secss = s.secss := rfl
@[simp] theorem State.placeBytes_epcm (bytes : List Byte) : (s.placeBytes bytes).epcm = s.epcm := rfl
@[simp] theorem State.placeBytes_access (bytes : List Byte) : (s.placeBytes bytes).access = s.access := rfl
@[simp] theorem State.placeBytes_text (bytes : List Byte) : (s.placeBytes bytes).text = writeRun s.text s.fetchAddr 0 bytes := rfl
@[simp] theorem State.placeBytes_mem (bytes : List Byte) : (s.placeBytes bytes).mem = s.mem := rfl
@[simp] theorem State.placeBytes_cfg (bytes : List Byte) : (s.placeBytes bytes).cfg = s.cfg := rfl
@[simp] theorem State.placeBytes_draws (bytes : List Byte) : (s.placeBytes bytes).draws = s.draws := rfl
@[simp] theorem State.placeBytes_fetchAddr (bytes : List Byte) : (s.placeBytes bytes).fetchAddr = s.fetchAddr := rfl

/-! ### The selection of the leaf -/

@[simp] theorem State.selectLeaf_some_rax :
    (s.selectLeaf (some .edeccssa)).rax = withEax s.rax leafEdeccssa := rfl
@[simp] theorem State.selectLeaf_none : s.selectLeaf none = s := rfl
@[simp] theorem State.selectLeaf_otherRegs (i : Option Instr) : (s.selectLeaf i).otherRegs = s.otherRegs := by
  rcases i with _ | ⟨⟨⟩⟩ <;> rfl
@[simp] theorem State.selectLeaf_rip (i : Option Instr) : (s.selectLeaf i).rip = s.rip := by
  rcases i with _ | ⟨⟨⟩⟩ <;> rfl
@[simp] theorem State.selectLeaf_rflags (i : Option Instr) : (s.selectLeaf i).rflags = s.rflags := by
  rcases i with _ | ⟨⟨⟩⟩ <;> rfl
@[simp] theorem State.selectLeaf_inEnclave (i : Option Instr) : (s.selectLeaf i).inEnclave = s.inEnclave := by
  rcases i with _ | ⟨⟨⟩⟩ <;> rfl
@[simp] theorem State.selectLeaf_mode64 (i : Option Instr) : (s.selectLeaf i).mode64 = s.mode64 := by
  rcases i with _ | ⟨⟨⟩⟩ <;> rfl
@[simp] theorem State.selectLeaf_procMode (i : Option Instr) : (s.selectLeaf i).procMode = s.procMode := by
  rcases i with _ | ⟨⟨⟩⟩ <;> rfl
@[simp] theorem State.selectLeaf_ds (i : Option Instr) : (s.selectLeaf i).ds = s.ds := by
  rcases i with _ | ⟨⟨⟩⟩ <;> rfl
@[simp] theorem State.selectLeaf_crTcsPa (i : Option Instr) : (s.selectLeaf i).crTcsPa = s.crTcsPa := by
  rcases i with _ | ⟨⟨⟩⟩ <;> rfl
@[simp] theorem State.selectLeaf_crActiveSecs (i : Option Instr) : (s.selectLeaf i).crActiveSecs = s.crActiveSecs := by
  rcases i with _ | ⟨⟨⟩⟩ <;> rfl
@[simp] theorem State.selectLeaf_crGprPa (i : Option Instr) : (s.selectLeaf i).crGprPa = s.crGprPa := by
  rcases i with _ | ⟨⟨⟩⟩ <;> rfl
@[simp] theorem State.selectLeaf_crXsavePages (i : Option Instr) : (s.selectLeaf i).crXsavePages = s.crXsavePages := by
  rcases i with _ | ⟨⟨⟩⟩ <;> rfl
@[simp] theorem State.selectLeaf_crCetSaveAreaPa (i : Option Instr) : (s.selectLeaf i).crCetSaveAreaPa = s.crCetSaveAreaPa := by
  rcases i with _ | ⟨⟨⟩⟩ <;> rfl
@[simp] theorem State.selectLeaf_tcss (i : Option Instr) : (s.selectLeaf i).tcss = s.tcss := by
  rcases i with _ | ⟨⟨⟩⟩ <;> rfl
@[simp] theorem State.selectLeaf_secss (i : Option Instr) : (s.selectLeaf i).secss = s.secss := by
  rcases i with _ | ⟨⟨⟩⟩ <;> rfl
@[simp] theorem State.selectLeaf_epcm (i : Option Instr) : (s.selectLeaf i).epcm = s.epcm := by
  rcases i with _ | ⟨⟨⟩⟩ <;> rfl
@[simp] theorem State.selectLeaf_access (i : Option Instr) : (s.selectLeaf i).access = s.access := by
  rcases i with _ | ⟨⟨⟩⟩ <;> rfl
@[simp] theorem State.selectLeaf_text (i : Option Instr) : (s.selectLeaf i).text = s.text := by
  rcases i with _ | ⟨⟨⟩⟩ <;> rfl
@[simp] theorem State.selectLeaf_mem (i : Option Instr) : (s.selectLeaf i).mem = s.mem := by
  rcases i with _ | ⟨⟨⟩⟩ <;> rfl
@[simp] theorem State.selectLeaf_cfg (i : Option Instr) : (s.selectLeaf i).cfg = s.cfg := by
  rcases i with _ | ⟨⟨⟩⟩ <;> rfl
@[simp] theorem State.selectLeaf_draws (i : Option Instr) : (s.selectLeaf i).draws = s.draws := by
  rcases i with _ | ⟨⟨⟩⟩ <;> rfl
@[simp] theorem State.selectLeaf_fetchBytes (i : Option Instr) : (s.selectLeaf i).fetchBytes = s.fetchBytes := by
  rcases i with _ | ⟨⟨⟩⟩ <;> rfl

/-- `EAX` reads back what was put into it (10_state.md R10). -/
@[simp] theorem setWidth_withEax (rax : BitVec 64) (eax : BitVec 32) : (withEax rax eax).setWidth 32 = eax := by
  ext i hi
  simp [withEax]

end Sys2Proof.Machine
end

