-- ==== Sys2Proof/Laws/Ops.lean ====
section
/-! SUPPORT. What each shared operation can do, said once: the checks of a page, the checks of the frame, the launch
premises, the registers written, and the meaning of the leaf. Later proofs cite these and do not unfold the
operations. -/
namespace Sys2Proof.Machine

variable {s : State} {v : EnclaveView} {owner : Nat} {la pa : Addr}

/-! ### The checks of a page -/

/-- The access check answers with the page frame listed for the linear page, at the offset of `la`. -/
theorem accessCheckRW_ok_iff :
    s.accessCheckRW la = .ok pa ↔
      ∃ frame, assocFind s.access (pageNo la) = some (.ok frame) ∧ pa = physAddr frame (offOf la) := by
  unfold State.accessCheckRW
  split
  · next frame h => simp [h, eq_comm]
  · next f h => simp [h]
  · next h => simp [h]

/-- The checks of an SSA page or of the GPR area pass exactly when the page is usable (40_edeccssa.md R76, R79). -/
theorem regPageCheck_ok_iff : s.regPageCheck owner la = .ok pa ↔ RegPageUsable s owner la pa := by
  unfold State.regPageCheck RegPageUsable
  cases ha : s.accessCheckRW la with
  | error f => simp
  | ok pa' =>
    simp only [Except.ok.injEq]
    cases he : s.epcmEntry pa' with
    | none =>
      simp only [reduceCtorEq, false_iff]
      rintro ⟨rfl, e, he', -⟩
      simp [he] at he'
    | some e =>
      dsimp only
      constructor
      · intro h
        split at h
        · cases h
        · split at h
          · cases h
          · split at h
            · cases h
            · split at h
              · cases h
              · next h1 h2 h3 h4 =>
                cases h
                simp only [not_or, ne_eq, not_not, Bool.not_eq_false, Bool.not_eq_true] at h1 h2 h3 h4
                exact ⟨rfl, e, he, h1, h2, h3.1, h3.2, h4⟩
      · rintro ⟨rfl, e', he', h1, h2, h3, h4, h5, h6, h7, h8, h9⟩
        obtain rfl : e = e' := by simpa [he] using he'
        simp [h1, h2, h3, h4, h5, h6, h7, h8, h9]

/-- A failed check of an SSA page or of the GPR area raises the fault of the access check, or `#PF` at `la`. -/
theorem regPageCheck_error {f : Fault} (h : s.regPageCheck owner la = .error f) :
    s.accessCheckRW la = .error f ∨ (∃ pa, s.accessCheckRW la = .ok pa) ∧ f = s.epcmFault la := by
  unfold State.regPageCheck at h
  split at h
  · next f' ha => exact .inl (by simpa [ha] using h)
  · next pa ha =>
    refine .inr ⟨⟨pa, ha⟩, ?_⟩
    repeat' (split at h)
    all_goals first | (cases h; rfl) | cases h

/-- The checks of the CET save page pass exactly when the page is usable (40_edeccssa.md R83). -/
theorem cetPageCheck_ok_iff : s.cetPageCheck owner la = .ok pa ↔ CetPageUsable s owner la pa := by
  unfold State.cetPageCheck CetPageUsable
  cases ha : s.accessCheckRW la with
  | error f => simp
  | ok pa' =>
    simp only [Except.ok.injEq]
    cases he : s.epcmEntry pa' with
    | none =>
      simp only [reduceCtorEq, false_iff]
      rintro ⟨rfl, e, he', -⟩
      simp [he] at he'
    | some e =>
      dsimp only
      constructor
      · intro h
        split at h
        · cases h
        · next h1 =>
          cases h
          simp only [not_or, ne_eq, not_not, Bool.not_eq_false, Bool.not_eq_true] at h1
          exact ⟨rfl, e, he, h1⟩
      · rintro ⟨rfl, e', he', h1, h2, h3, h4, h5, h6, h7, h8, h9⟩
        obtain rfl : e = e' := by simpa [he] using he'
        simp [h1, h2, h3, h4, h5, h6, h7, h8, h9]

/-- A failed check of the CET save page raises the fault of the access check, or `#PF` at `la`. -/
theorem cetPageCheck_error {f : Fault} (h : s.cetPageCheck owner la = .error f) :
    s.accessCheckRW la = .error f ∨ (∃ pa, s.accessCheckRW la = .ok pa) ∧ f = s.epcmFault la := by
  unfold State.cetPageCheck at h
  split at h
  · next f' ha => exact .inl (by simpa [ha] using h)
  · next pa ha =>
    refine .inr ⟨⟨pa, ha⟩, ?_⟩
    repeat' (split at h)
    all_goals first | (cases h; rfl) | cases h

/-- The checks of `k` XSAVE pages from page `n` on pass exactly when each page passes its own (40_edeccssa.md R76,
R77). -/
theorem xsavePageChecks_ok_iff {ssa n k : Nat} {pas : List Addr} :
    s.xsavePageChecks owner ssa n k = .ok pas ↔
      pas.length = k ∧ ∀ i pa, pas[i]? = some pa → RegPageUsable s owner (s.lin (xsavePage ssa (n + i))) pa := by
  induction k generalizing n pas with
  | zero =>
    constructor
    · intro h
      cases h
      simp
    · rintro ⟨h, -⟩
      rw [List.length_eq_zero_iff.1 h]
      rfl
  | succ k ih =>
    unfold State.xsavePageChecks
    constructor
    · intro h
      split at h
      · cases h
      · next pa hpa =>
        split at h
        · cases h
        · next rest hrest =>
          cases h
          obtain ⟨hlen, hall⟩ := ih.1 hrest
          refine ⟨by simp [hlen], fun i pa' hi => ?_⟩
          cases i with
          | zero =>
            obtain rfl : pa = pa' := by simpa using hi
            exact regPageCheck_ok_iff.1 hpa
          | succ i => simpa [Nat.add_assoc, Nat.add_comm 1 i] using hall i pa' (by simpa using hi)
    · rintro ⟨hlen, hall⟩
      cases pas with
      | nil => simp at hlen
      | cons pa rest =>
        have h0 : s.regPageCheck owner (s.lin (xsavePage ssa n)) = .ok pa :=
          regPageCheck_ok_iff.2 (by simpa using hall 0 pa rfl)
        have hr : s.xsavePageChecks owner ssa (n + 1) k = .ok rest :=
          ih.2 ⟨by simpa using hlen, fun i pa' hi => by
            simpa [Nat.add_assoc, Nat.add_comm 1 i] using hall (i + 1) pa' (by simpa using hi)⟩
        simp [h0, hr]

/-- The first XSAVE page that fails its checks gives the fault: the pages before it passed theirs (60_exceptions.md
R104 item 3). -/
theorem xsavePageChecks_error_iff {ssa n k : Nat} {f : Fault} :
    s.xsavePageChecks owner ssa n k = .error f ↔
      ∃ i < k, s.regPageCheck owner (s.lin (xsavePage ssa (n + i))) = .error f ∧
        ∀ j < i, ∃ pa, s.regPageCheck owner (s.lin (xsavePage ssa (n + j))) = .ok pa := by
  induction k generalizing n with
  | zero => simp [State.xsavePageChecks]
  | succ k ih =>
    unfold State.xsavePageChecks
    cases h0 : s.regPageCheck owner (s.lin (xsavePage ssa n)) with
    | error f' =>
      constructor
      · intro h
        exact ⟨0, Nat.succ_pos k, by simpa [h0] using h, by simp⟩
      · rintro ⟨i, -, hi, hbefore⟩
        cases i with
        | zero => simpa [h0] using hi
        | succ i =>
          obtain ⟨pa, hpa⟩ := hbefore 0 (Nat.succ_pos i)
          simp [h0] at hpa
    | ok pa =>
      have hstep : (match s.xsavePageChecks owner ssa (n + 1) k with
          | .error f => .error f
          | .ok pas => .ok (pa :: pas) : Except Fault (List Addr)) = .error f ↔
          s.xsavePageChecks owner ssa (n + 1) k = .error f := by
        cases s.xsavePageChecks owner ssa (n + 1) k <;> simp
      refine hstep.trans (ih.trans ?_)
      constructor
      · rintro ⟨i, hi, hf, hbefore⟩
        refine ⟨i + 1, by omega, by simpa [Nat.add_assoc, Nat.add_comm 1 i] using hf, fun j hj => ?_⟩
        cases j with
        | zero => exact ⟨pa, by simpa using h0⟩
        | succ j => simpa [Nat.add_assoc, Nat.add_comm 1 j] using hbefore j (by omega)
      · rintro ⟨i, hi, hf, hbefore⟩
        cases i with
        | zero => simp [h0] at hf
        | succ i =>
          refine ⟨i, by omega, by simpa [Nat.add_assoc, Nat.add_comm 1 i] using hf, fun j hj => ?_⟩
          simpa [Nat.add_assoc, Nat.add_comm 1 j] using hbefore (j + 1) (by omega)

/-! ### The launch premises -/

/-- The premises L2 to L4 hold exactly when the function that tests them passes. -/
theorem leafPremises_ok_iff {u : Unit} : s.leafPremises = .ok u ↔ LeafReady s := by
  unfold State.leafPremises
  constructor
  · intro h
    split at h
    · cases h
    · split at h
      · cases h
      · split at h
        · cases h
        · split at h
          · cases h
          · next h1 h2 h3 h4 =>
            simp only [ne_eq, not_not, Bool.not_eq_false, Bool.not_eq_true, ProcMode.invalidOpcode, ProcMode.protection,
              Bool.or_eq_false_iff, Bool.not_eq_false', decide_eq_false_iff_not] at h1 h2 h3 h4
            exact ⟨h1, h2, h3.1.1.1.1, h3.1.1.1.2, h3.1.1.2, h3.1.2, h3.2, h4.1, h4.2⟩
  · intro h
    simp [h.leaf, h.supported, h.pe, h.notV86, h.notSmm, h.enclaveExt, h.cpl, h.pg, h.ne, leafEdeccssa,
      ProcMode.invalidOpcode, ProcMode.protection]

/-- What the leaf reaches through `CR_TCS_PA` and `CR_ACTIVE_SECS`, exactly when the premises L5 and L6 hold of it. -/
theorem enclaveView_ok_iff : s.enclaveView = .ok v ↔ EnclaveReady s v := by
  unfold State.enclaveView
  constructor
  · intro h
    split at h
    · cases h
    · next tcs htcs =>
      split at h
      · cases h
      · next e he =>
        split at h
        · cases h
        · next secs hsecs =>
          split at h
          · cases h
          · split at h
            · cases h
            · split at h
              · cases h
              · next h1 h2 h3 =>
                cases h
                exact ⟨htcs, ⟨e, he, rfl⟩, hsecs, by simpa using h1, by simpa using h2, by simpa using h3⟩
  · rintro ⟨htcs, ⟨e, he, howner⟩, hsecs, h1, h2, h3⟩
    simp [htcs, he, hsecs, h1, h2, h3, howner]

/-- At most one view of the enclave meets the premises. -/
theorem EnclaveReady.unique {v' : EnclaveView} (h : EnclaveReady s v) (h' : EnclaveReady s v') : v = v' := by
  have h1 := enclaveView_ok_iff.2 h
  rw [enclaveView_ok_iff.2 h'] at h1
  cases h1
  rfl

/-- The XSAVE pages end at or below the limit exactly when each of them lies below it, as R92 asks. -/
theorem xsavePages_inRange {ssa k lim : Nat} (h : ssa < lim) :
    xsavePage ssa k ≤ lim ↔ ∀ n < k, xsavePage ssa n + 4095 < lim := by
  simp only [xsavePage, pageSize]
  refine ⟨fun hk n hn => by omega, fun hall => ?_⟩
  cases k with
  | zero => omega
  | succ k =>
    have := hall k (Nat.lt_succ_self k)
    omega

/-- The premises L7, L8 and L10 hold exactly when the function that tests them passes. -/
theorem launchPremises_ok_iff {u : Unit} : s.launchPremises v = .ok u ↔ LaunchReady s v := by
  have hlow : ¬ (s.mode64 = false ∧ v.below4G = false) ↔ (s.mode64 = false →
      v.secs.baseAddr.toNat < 2 ^ 32 ∧ v.tcs.ossa.toNat < 2 ^ 32 ∧ v.tcs.ocetssa.toNat < 2 ^ 32) := by
    unfold EnclaveView.below4G
    rw [not_and, Bool.not_eq_false, Bool.and_eq_true, Bool.and_eq_true, decide_eq_true_iff, decide_eq_true_iff,
      decide_eq_true_iff, and_assoc]
  unfold State.launchPremises
  constructor
  · intro h
    split at h
    · cases h
    · split at h
      · cases h
      · split at h
        · cases h
        · split at h
          · cases h
          · next h1 h2 h3 h4 =>
            simp only [pageSize, not_or, ne_eq, not_not, not_lt] at h1 h2
            exact ⟨h1.1, h1.2, h2.1, h2.2, h3, hlow.1 h4⟩
  · intro h
    have h1 := h.gprsgxSizeLow
    have h2 := h.gprsgxSizeHigh
    have h3 := h.xsize
    rw [if_neg (by simp [pageSize, h.baseAligned, h.ossaAligned]), if_neg (by simp only [pageSize]; omega),
      if_neg (by simpa only [pageSize] using h3), if_neg (hlow.2 h.below4G)]

/-- The premises on the target frame hold exactly when the function that tests them passes. -/
theorem framePremises_ok_iff {u : Unit} : s.framePremises v = .ok u ↔ FrameReady s v := by
  have hrange : ∀ p : FramePlan, framePlanInRange s.cfg v p (2 ^ s.eaW) = true ↔
      p.ssa < 2 ^ s.eaW ∧ (∀ n < p.pages, xsavePage p.ssa n + 4095 < 2 ^ s.eaW) ∧
        s.cfg.gprsgxSize ≤ frameEnd v.secs p.ssa ∧ p.gpr < 2 ^ s.eaW ∧ p.gpr + s.cfg.gprsgxSize - 1 < 2 ^ s.eaW ∧
        ∀ area, p.cet = some area → area + 15 < 2 ^ s.eaW := by
    intro p
    have hp (h : p.ssa < 2 ^ s.eaW) := xsavePages_inRange (k := p.pages) h
    rw [and_congr_right (fun h => and_congr_left' (hp h).symm)]
    change _ ↔ _ ∧ _ ∧ _ ∧ _ ∧ gprAreaLast s.cfg p.gpr < _ ∧ _
    unfold framePlanInRange
    cases hcet : p.cet <;> simp [and_assoc]
  unfold State.framePremises
  constructor
  · intro h
    split at h
    · cases h
    · split at h
      · cases h
      · next h1 h2 =>
        obtain ⟨a, b, c, d, e, f⟩ := (hrange _).1 (by simpa using h2)
        exact ⟨by simpa using h1, a, b, c, d, e, f⟩
  · intro h
    have h1 := h.notInUse
    have h2 : framePlanInRange s.cfg v (framePlan s.cfg v) (2 ^ s.eaW) = true :=
      (hrange _).2 ⟨h.ssaInRange, h.pagesInRange, h.gprNotNegative, h.gprInRange, h.gprLastInRange, h.cetInRange⟩
    rw [if_neg (by simpa using h1), if_neg (by simp [h2])]

/-! ### The checks of the frame -/

/-- The CET part passes exactly when it is off, or its page is usable (40_edeccssa.md R81 to R83). -/
theorem cetCheck_ok_iff {cetPa : Option Addr} :
    s.cetCheck v.owner (framePlan s.cfg v).cet = .ok cetPa ↔ CetPartOk s v cetPa := by
  unfold State.cetCheck CetPartOk
  cases (framePlan s.cfg v).cet with
  | none => simp [eq_comm]
  | some area =>
    dsimp only
    cases h : s.cetPageCheck v.owner (s.lin (eaPage area)) with
    | error f =>
      simp only [reduceCtorEq, false_iff, not_exists, not_and]
      intro pa hpa
      simp [cetPageCheck_ok_iff.2 hpa] at h
    | ok pa =>
      have hu := cetPageCheck_ok_iff.1 h
      constructor
      · intro heq
        cases heq
        exact ⟨pa, hu, by simp [eaOff, pageSize]⟩
      · rintro ⟨pa', hu', rfl⟩
        obtain rfl : pa = pa' := by
          have h1 := hu.1
          rw [hu'.1] at h1
          simpa [eq_comm] using h1
        simp [eaOff, pageSize]

/-- The DS limit check, as 40_edeccssa.md R80 says it. -/
theorem dsLimitFails_eq_false_iff : s.dsLimitFails (framePlan s.cfg v).gpr = false ↔ DsLimitOk s v := by
  unfold State.dsLimitFails DsLimitOk gprAreaLast
  cases s.mode64 <;> simp

/-- Every check of the frame passes exactly when the frame is usable (40_edeccssa.md R84). -/
theorem frameChecks_ok_iff {t : Targets} :
    s.frameChecks v.owner (framePlan s.cfg v) = .ok t ↔ FrameUsable s v t := by
  unfold State.frameChecks
  constructor
  · intro h
    split at h
    · cases h
    · next pas hpas =>
      split at h
      · cases h
      · next gprPa hgpr =>
        split at h
        · cases h
        · next hds =>
          split at h
          · cases h
          · next cetPa hcet =>
            cases h
            obtain ⟨hlen, hall⟩ := xsavePageChecks_ok_iff.1 hpas
            exact ⟨⟨hlen, fun n pa hn => by simpa [xsavePageLa] using hall n pa hn⟩, regPageCheck_ok_iff.1 hgpr,
              dsLimitFails_eq_false_iff.1 (by simpa using hds), cetCheck_ok_iff.1 hcet⟩
  · intro h
    have hpas : s.xsavePageChecks v.owner (framePlan s.cfg v).ssa 0 (framePlan s.cfg v).pages = .ok t.xsave :=
      xsavePageChecks_ok_iff.2 ⟨h.xsave.1, fun n pa hn => by simpa [xsavePageLa] using h.xsave.2 n pa hn⟩
    have hgpr : s.regPageCheck v.owner (s.lin (framePlan s.cfg v).gpr) = .ok t.gpr := regPageCheck_ok_iff.2 h.gpr
    simp [hpas, hgpr, dsLimitFails_eq_false_iff.2 h.ds, cetCheck_ok_iff.2 h.cet]

/-- The fault of the frame's checks, in the order of 60_exceptions.md R104 items 3 to 6: an XSAVE page, the GPR area,
the DS limit, the CET save page. -/
theorem frameChecks_error {f : Fault} (h : s.frameChecks v.owner (framePlan s.cfg v) = .error f) :
    (∃ n < npages s v, s.regPageCheck v.owner (xsavePageLa s v n) = .error f) ∨
      s.regPageCheck v.owner (gprLa s v) = .error f ∨
      (¬ DsLimitOk s v ∧ f = .gp0) ∨
      ∃ area, (framePlan s.cfg v).cet = some area ∧ s.cetPageCheck v.owner (s.lin (eaPage area)) = .error f := by
  unfold State.frameChecks at h
  split at h
  · next f' hf =>
    cases h
    obtain ⟨i, hi, hfi, -⟩ := xsavePageChecks_error_iff.1 hf
    exact .inl ⟨i, hi, by simpa [xsavePageLa] using hfi⟩
  · split at h
    · next f' hf =>
      cases h
      exact .inr (.inl hf)
    · split at h
      · next hds =>
        cases h
        refine .inr (.inr (.inl ⟨fun hok => ?_, rfl⟩))
        simp [dsLimitFails_eq_false_iff.2 hok] at hds
      · split at h
        · next f' hf =>
          cases h
          refine .inr (.inr (.inr ?_))
          unfold State.cetCheck at hf
          split at hf
          · cases hf
          · next area harea =>
            refine ⟨area, harea, ?_⟩
            cases hc : s.cetPageCheck v.owner (s.lin (eaPage area)) with
            | error f'' => simpa [hc] using hf
            | ok pa => simp [hc] at hf
        · cases h

/-! ### The registers written -/

@[simp] theorem xsavePageReg_write_self (regs : Assoc Addr) (n : Nat) (a : Addr) :
    xsavePageReg (writeXsavePageReg regs n a) n = a := by
  unfold writeXsavePageReg
  split
  · next h => simp [xsavePageReg, h]
  · simp [xsavePageReg]

theorem xsavePageReg_write_other (regs : Assoc Addr) {n m : Nat} (a : Addr) (h : m ≠ n) :
    xsavePageReg (writeXsavePageReg regs n a) m = xsavePageReg regs m := by
  unfold writeXsavePageReg
  split
  · simp [xsavePageReg, assocFind_erase_other _ h]
  · simp [xsavePageReg, assocFind_put_other _ _ h]

/-- A register below the first one written keeps its value. -/
theorem xsavePageReg_writeRegs_below (regs : Assoc Addr) {n m : Nat} (pas : List Addr) (h : m < n) :
    xsavePageReg (writeXsavePageRegs regs n pas) m = xsavePageReg regs m := by
  induction pas generalizing regs n with
  | nil => rfl
  | cons a rest ih => rw [writeXsavePageRegs, ih _ (by omega), xsavePageReg_write_other _ _ (by omega)]

/-- `CR_XSAVE_PAGE_m` after the family is written from `n` on: the address recorded for it, or its old value
(40_edeccssa.md R87). -/
theorem xsavePageReg_writeRegs (regs : Assoc Addr) {n m : Nat} (pas : List Addr) (h : n ≤ m) :
    xsavePageReg (writeXsavePageRegs regs n pas) m = (pas[m - n]?).getD (xsavePageReg regs m) := by
  induction pas generalizing regs n with
  | nil => rfl
  | cons a rest ih =>
    rw [writeXsavePageRegs]
    rcases Nat.eq_or_lt_of_le h with rfl | hlt
    · rw [xsavePageReg_writeRegs_below _ _ (Nat.lt_succ_self n)]
      simp
    · rw [ih _ hlt, xsavePageReg_write_other _ _ (by omega)]
      have : m - n = (m - (n + 1)) + 1 := by omega
      rw [this, List.getElem?_cons_succ]

/-- Writing the family keeps its canonical form. -/
theorem writeXsavePageRegs_rising {regs : Assoc Addr} (n : Nat) (pas : List Addr) (h : assocRising regs = true) :
    assocRising (writeXsavePageRegs regs n pas) = true := by
  induction pas generalizing regs n with
  | nil => exact h
  | cons a rest ih =>
    refine ih (n + 1) ?_
    unfold writeXsavePageReg
    split
    · exact assocRising_erase _ h
    · exact assocRising_put _ _ h

/-- What the family lists after it is written was listed before, or is a recorded address other than 0. -/
theorem mem_writeXsavePageRegs {regs : Assoc Addr} {n : Nat} {pas : List Addr} {e : Nat × Addr}
    (h : e ∈ writeXsavePageRegs regs n pas) : e ∈ regs ∨ (e.2 ∈ pas ∧ e.2 ≠ 0#64) := by
  induction pas generalizing regs n with
  | nil => exact .inl h
  | cons a rest ih =>
    rcases ih h with h | h
    · unfold writeXsavePageReg at h
      split at h
      · exact .inl (mem_of_mem_assocErase h)
      · next ha =>
        rcases mem_of_mem_assocPut h with rfl | h
        · exact .inr ⟨by simp, ha⟩
        · exact .inl h
    · exact .inr ⟨List.mem_cons_of_mem _ h.1, h.2⟩

/-! ### The meaning of the leaf -/

/-- What the leaf can do, said once. -/
theorem execEdeccssa_cases (s : State) :
    (¬ LeafReady s ∧ ∃ r, execEdeccssa s = .refused r) ∨
    (LeafReady s ∧ s.inEnclave = false ∧ execEdeccssa s = .fault .gp0) ∨
    (LeafReady s ∧ s.inEnclave = true ∧ (¬ ∃ v, EnclaveReady s v) ∧ ∃ r, execEdeccssa s = .refused r) ∨
    (LeafReady s ∧ s.inEnclave = true ∧ ∃ v, EnclaveReady s v ∧
      ((¬ LaunchReady s v ∧ ∃ r, execEdeccssa s = .refused r) ∨
       (LaunchReady s v ∧ v.tcs.cssa = 0#32 ∧ execEdeccssa s = .fault .gp0) ∨
       (LaunchReady s v ∧ v.tcs.cssa ≠ 0#32 ∧ ¬ FrameReady s v ∧ ∃ r, execEdeccssa s = .refused r) ∨
       (Admitted s v ∧ ∃ f, s.frameChecks v.owner (framePlan s.cfg v) = .error f ∧ execEdeccssa s = .fault f) ∨
       (Admitted s v ∧ ∃ t, FrameUsable s v t ∧ execEdeccssa s = .next (s.complete v.tcs t)))) := by
  unfold execEdeccssa
  cases hl : s.leafPremises with
  | error r =>
    refine .inl ⟨fun h => ?_, r, rfl⟩
    simp [leafPremises_ok_iff (u := ()) |>.2 h] at hl
  | ok u =>
    have hleaf := leafPremises_ok_iff.1 hl
    refine .inr ?_
    cases hin : s.inEnclave with
    | false => exact .inl ⟨hleaf, rfl, by simp [raise]⟩
    | true =>
      refine .inr ?_
      cases hv : s.enclaveView with
      | error r =>
        refine .inl ⟨hleaf, rfl, fun ⟨v, h⟩ => ?_, r, by simp [refuse]⟩
        simp [enclaveView_ok_iff.2 h] at hv
      | ok v =>
        have henc := enclaveView_ok_iff.1 hv
        refine .inr ⟨hleaf, rfl, v, henc, ?_⟩
        cases hp : s.launchPremises v with
        | error r =>
          refine .inl ⟨fun h => ?_, r, by simp [hp, refuse]⟩
          simp [launchPremises_ok_iff (u := ()) |>.2 h] at hp
        | ok u =>
          have hlaunch := launchPremises_ok_iff.1 hp
          refine .inr ?_
          by_cases hc : v.tcs.cssa = 0#32
          · exact .inl ⟨hlaunch, hc, by simp [hp, hc, raise]⟩
          · refine .inr ?_
            cases hf : s.framePremises v with
            | error r =>
              refine .inl ⟨hlaunch, hc, fun h => ?_, r, by simp [hp, hc, hf, refuse]⟩
              simp [framePremises_ok_iff (u := ()) |>.2 h] at hf
            | ok u' =>
              have hadm : Admitted s v := ⟨hleaf, hin, henc, hlaunch, hc, framePremises_ok_iff.1 hf⟩
              refine .inr ?_
              cases hx : s.frameChecks v.owner (framePlan s.cfg v) with
              | error f => exact .inl ⟨hadm, f, rfl, by simp [hp, hc, hf, hx, raise]⟩
              | ok t => exact .inr ⟨hadm, t, frameChecks_ok_iff.1 hx, by simp [hp, hc, hf, hx]⟩

end Sys2Proof.Machine
end

