-- ==== Sys2Proof/Laws/PerInstr.lean ====
section
/-! SUPPORT. The laws stated per instruction: one lemma per constructor of `Instr`. -/
namespace Sys2Proof.Laws

/-- An instruction is well formed, its encoding has the length of `ENCLU`, and it decodes to the instruction with the
bytes after it left over (30_encoding.md R60, R64). -/
def EncodingRoundTrip.Statement (i : Instr) : Prop :=
  i.WellFormed ∧ (encode i).length = encluLen ∧ ∀ rest, decode (encode i ++ rest) = .ok (i, rest)

theorem EncodingRoundTrip.edeccssa : EncodingRoundTrip.Statement .edeccssa := ⟨rfl, rfl, fun _ => rfl⟩

end Sys2Proof.Laws
end

