-- ==== Sys2Proof/Laws/Run.lean ====
section
/-! SUPPORT. How a run unfolds: one step, then the rest of the run. -/
namespace Sys2Proof.Machine

theorem coreRun_succ_next (M : Host.Core) {k : Nat} {s u : M.State} (h : M.step s = .next u) :
    M.run (k + 1) s = M.run k u := by
  simp [Host.Core.run, h]

theorem coreRun_succ_fault (M : Host.Core) {k : Nat} {s : M.State} {f : M.Fault} (h : M.step s = .fault f) :
    M.run (k + 1) s = .fault f := by
  simp [Host.Core.run, h]

theorem coreRun_succ_refused (M : Host.Core) {k : Nat} {s : M.State} {r : M.Refusal} (h : M.step s = .refused r) :
    M.run (k + 1) s = .refused r := by
  simp [Host.Core.run, h]

@[simp] theorem runOf_zero (s : State) : runOf 0 s = .next s := rfl

/-- After a step that answers a next state the run goes on from there. -/
theorem runOf_succ_next {k : Nat} {s u : State} (h : step s = .next u) : runOf (k + 1) s = runOf k u :=
  coreRun_succ_next Sys2Proof.core h

/-- A fault ends the run (60_exceptions.md R115 (a)). -/
theorem runOf_succ_fault {k : Nat} {s : State} {f : Fault} (h : step s = .fault f) : runOf (k + 1) s = .fault f :=
  coreRun_succ_fault Sys2Proof.core h

/-- A refusal ends the run (60_exceptions.md R115 (b)). -/
theorem runOf_succ_refused {k : Nat} {s : State} {r : Refusal} (h : step s = .refused r) :
    runOf (k + 1) s = .refused r :=
  coreRun_succ_refused Sys2Proof.core h

/-- A run that ends in a state began with a step that answered a next state. -/
theorem runOf_succ_eq_next_iff {k : Nat} {s t : State} :
    runOf (k + 1) s = .next t ↔ ∃ u, step s = .next u ∧ runOf k u = .next t := by
  constructor
  · intro h
    cases hs : step s with
    | next u => exact ⟨u, rfl, by rw [← runOf_succ_next hs, h]⟩
    | fault f => rw [runOf_succ_fault hs] at h; cases h
    | refused r => rw [runOf_succ_refused hs] at h; cases h
  · rintro ⟨u, hs, h⟩
    rw [runOf_succ_next hs, h]

end Sys2Proof.Machine
end

