-- ==== Sys2Proof/Tests/Slice0.lean ====
section
/-! SUPPORT. Tests of the model, and for every statement with hypotheses a concrete state and operands that meet them
all (`witness_...`). The expected values of the tests are worked out by hand from the rules, in the manner of
95_test_vectors.md. -/
namespace Sys2Proof.Machine.Tests

/-! ### The example state

In the manner of setup B of 95_test_vectors.md: an enclave at `0x1000_0000` whose linear page `0x1000_0000 + x` is the
physical page `0x8000_0000 + x`, frames of three pages, an XSAVE area of 5000 bytes (two pages), `CSSA = 2`. So the
target frame is frame 1 at `0x1001_3000`, its XSAVE pages are `0x1001_3000` and `0x1001_4000`, its GPR area begins at
`0x1001_5F48`, and CET entry 1 is at `0x1002_0010`. -/

def entry (x : Nat) (pt : PageType) : EpcmEntry :=
  { valid := true, blocked := false, pending := false, modified := false, r := true, w := true, pt := pt,
    enclaveAddress := BitVec.ofNat 64 (0x10000000 + 4096 * x), enclaveSecs := 7 }

def exTcs : Tcs :=
  { cssa := 2, ossa := 0x10000, ocetssa := 0x20000, valid := true, available := true, locked := false,
    framesInUse := [5], rest := [0xAA] }

def exSecs : Secs := { baseAddr := 0x10000000, ssaFrameSize := 3, xfrm := 3, shStkEn := true, endbrEn := false }

def ex : State :=
  { State.reset with
    rax := 0x1234567800000009
    otherRegs := [1, 2]
    rip := 0x10002000
    rflags := 0x202
    inEnclave := true
    ds := { base := 0, limit := 0x10015FFF, expandUp := true }
    crTcsPa := 0x80001000
    crActiveSecs := 1
    crGprPa := 0x80011F48
    crXsavePages := [(0, 0x80011000), (2, 0xDEAD0000)]
    crCetSaveAreaPa := 0xDEAD0010
    tcss := [(0x80001000, exTcs)]
    secss := [(1, exSecs)]
    epcm := (0x80001, entry 1 (.other 1)) :: (0x80010, entry 0x10 .reg) :: (0x80011, entry 0x11 .reg)
      :: (0x80012, entry 0x12 .reg) :: (0x80013, entry 0x13 .reg) :: (0x80014, entry 0x14 .reg)
      :: (0x80015, entry 0x15 .reg) :: [(0x80020, entry 0x20 .ssRest)]
    access := (0x10010, .ok 0x80010) :: (0x10011, .ok 0x80011) :: (0x10012, .ok 0x80012) :: (0x10013, .ok 0x80013)
      :: (0x10014, .ok 0x80014) :: (0x10015, .ok 0x80015) :: (0x10020, .ok 0x80020)
      :: [(0x10030, .fault (.pageFault 6))]
    text := [(0x10002000, 0x0F), (0x10002001, 0x01), (0x10002002, 0xD7), (0x10002003, 0x0F), (0x10002004, 0x01),
      (0x10002005, 0xD7)]
    mem := [(0x80015F48, 0x55)]
    cfg := { State.reset.cfg with xsaveFrameSizes := [(3, 5000)], cpuid12_1Eax6 := true, paW := 52 } }

def exView : EnclaveView := { tcs := exTcs, secs := exSecs, owner := 7 }

def exTargets : Targets :=
  { xsave := [0x80013000, 0x80014000], gpr := 0x80015F48, cet := some 0x80020010 }

/-- The example state with another TCS. -/
def withTcs (s : State) (tcs : Tcs) : State := { s with tcss := [(0x80001000, tcs)] }

/-- The example state with an EPCM entry changed. -/
def withEntry (s : State) (page : Nat) (e : EpcmEntry) : State := { s with epcm := assocPut s.epcm page e }

/-- The example state with the answer of the access check of a linear page changed. -/
def withAccess (s : State) (page : Nat) (a : PageAccess) : State := { s with access := assocPut s.access page a }

/-! ### Decoding, well-formedness, canonical forms -/

/-- 30_encoding.md R60: `0F 01 D7`, written out bit by bit. -/
theorem test_decode_enclu : decode [0b00001111, 0b00000001, 0b11010111, 0x90] = .ok (.edeccssa, [0x90]) := by decide

/-- 30_encoding.md R67: the same as a little-endian 24-bit number. -/
theorem test_decode_table_word : decodeTableWord 24 0xD7010F = some .edeccssa := by decide

/-- 30_encoding.md R64 (V35), R65: a prefixed form, another last byte, an instruction cut short. -/
theorem test_decode_rejects :
    decode [0x66, 0x0F, 0x01, 0xD7] = .error .prefixedForm ∧ decode [0x0F, 0x01, 0xCF] = .error .otherInstruction ∧
      decode [0x0F, 0x01] = .error .truncated := by decide

/-- 30_encoding.md R61: the one instruction has no field, so `Instr.wf` has no check that could refuse a term. -/
theorem test_wf_edeccssa : Instr.wf .edeccssa = true := by decide

/-- The canonical form refuses memory whose addresses do not rise. -/
theorem test_memory_wf_refuses : Memory.wf [(1, 0), (1, 0)] = false ∧ Memory.wf [(2, 0), (1, 0)] = false := by decide

/-! ### The leaf -/

/-- One step of the example state (40_edeccssa.md R85 to R89), each value worked out by hand. -/
theorem test_step_completes :
    (match step ex with
      | .next t => decide (t.cssa? = some 1 ∧ t.crGprPa = 0x80015F48 ∧ xsavePageReg t.crXsavePages 0 = 0x80013000 ∧
          xsavePageReg t.crXsavePages 1 = 0x80014000 ∧ xsavePageReg t.crXsavePages 2 = 0xDEAD0000 ∧
          t.crCetSaveAreaPa = 0x80020010 ∧ t.rip = 0x10002003 ∧ t.rax = ex.rax)
      | _ => false) = true := by decide

/-- The GPR page fails its EPCM checks: the fault is at `DS:TMP_GPR` itself (40_edeccssa.md R79, as V21). -/
theorem test_step_gpr_fault :
    (match step (withEntry ex 0x80015 { entry 0x15 .reg with w := false }) with
      | .fault (.pf la _) => la == 0x10015F48
      | _ => false) = true := by decide

/-- Premise L7 fails with `CSSA = 0`: refused, not `#GP(0)` (70_reset_and_hazards.md R121). -/
theorem test_step_unaligned_before_cssa :
    step (withTcs ex { exTcs with cssa := 0, ossa := 0x10800 }) = .refused .unaligned := by rfl

/-- Premise L10 fails outside 64-bit mode, with the CET part off (70_reset_and_hazards.md R121). -/
theorem test_step_ocetssa_above_4G :
    step (withTcs { ex with cfg := { ex.cfg with cpuid12_1Eax6 := false } } { exTcs with ocetssa := 0x100000000 }) =
      .refused .addressOutOfRange := by rfl

/-! ### Witnesses: the example state is admitted and its target frame usable -/

theorem ex_leafReady : LeafReady ex := leafPremises_ok_iff (u := ()) |>.1 rfl

theorem ex_enclaveReady : EnclaveReady ex exView := enclaveView_ok_iff.1 rfl

theorem ex_launchReady : LaunchReady ex exView := launchPremises_ok_iff (u := ()) |>.1 rfl

theorem ex_frameReady : FrameReady ex exView := framePremises_ok_iff (u := ()) |>.1 rfl

theorem ex_admitted : Admitted ex exView := ⟨ex_leafReady, rfl, ex_enclaveReady, ex_launchReady, by decide, ex_frameReady⟩

theorem ex_frameUsable : FrameUsable ex exView exTargets := frameChecks_ok_iff.1 rfl

/-- A state that differs from the example only in what `Admitted` does not read is admitted too. -/
theorem admitted_of {s : State} {v : EnclaveView} (h1 : s.leafPremises = .ok ()) (h2 : s.inEnclave = true)
    (h3 : s.enclaveView = .ok v) (hl : s.launchPremises v = .ok ()) (h4 : v.tcs.cssa ≠ 0#32)
    (h5 : s.framePremises v = .ok ()) : Admitted s v :=
  ⟨leafPremises_ok_iff.1 h1, h2, enclaveView_ok_iff.1 h3, launchPremises_ok_iff.1 hl, h4, framePremises_ok_iff.1 h5⟩

/-- A page whose checks answer a fault is not usable. -/
theorem not_regPageUsable {s : State} {owner : Nat} {la pa : Addr} {f : Fault}
    (h : s.regPageCheck owner la = .error f) : ¬ RegPageUsable s owner la pa := fun hu => by
  rw [regPageCheck_ok_iff.2 hu] at h
  cases h

/-- A CET save page whose checks answer a fault is not usable. -/
theorem not_cetPageUsable {s : State} {owner : Nat} {la pa : Addr} {f : Fault}
    (h : s.cetPageCheck owner la = .error f) : ¬ CetPageUsable s owner la pa := fun hu => by
  rw [cetPageCheck_ok_iff.2 hu] at h
  cases h

/-- The XSAVE pages are usable when the function that checks them passes. -/
theorem xsavePagesUsable_of {s : State} {v : EnclaveView} {pas : List Addr}
    (h : s.xsavePageChecks v.owner (framePlan s.cfg v).ssa 0 (framePlan s.cfg v).pages = .ok pas) :
    XsavePagesUsable s v pas := by
  obtain ⟨hlen, hall⟩ := xsavePageChecks_ok_iff.1 h
  exact ⟨hlen, fun n pa hn => by simpa [xsavePageLa] using hall n pa hn⟩

/-! ### Witnesses of the statements -/

theorem witness_StepRunsDecodedInstruction :
    decode ex.fetchBytes = .ok (.edeccssa, []) ∧ Instr.WellFormed .edeccssa := by decide

theorem witness_DecoderAcceptsExactlyTheEncodings : decode [0x0F, 0x01, 0xD7] = .ok (.edeccssa, []) := by decide

/-- Both clauses: the leaf numbers next to 9 (V32), and bytes that differ in the last (no byte at `RIP` at all too). -/
theorem witness_OtherLeavesAndBytesRefused :
    ({ ex with rax := 8 } : State).eax ≠ 9 ∧ ({ ex with rax := 10 } : State).eax ≠ 9 ∧
      (∀ rest, ({ ex with text := [] } : State).fetchBytes ≠ [0x0F, 0x01, 0xD7] ++ rest) ∧
      ∀ rest, ({ ex with text := [(0x10002000, 0x0F), (0x10002001, 0x01), (0x10002002, 0xD6)] } : State).fetchBytes ≠
        [0x0F, 0x01, 0xD7] ++ rest := by
  refine ⟨by decide, by decide, fun rest h => ?_, fun rest h => ?_⟩
  · have he : ({ ex with text := [] } : State).fetchBytes = [] := rfl
    rw [he] at h
    cases h
  · have he : ({ ex with text := [(0x10002000, 0x0F), (0x10002001, 0x01), (0x10002002, 0xD6)] } : State).fetchBytes =
        [0x0F, 0x01, 0xD6] := rfl
    rw [he] at h
    simp at h

theorem witness_PrefixedFormsRefused :
    isPrefixByte 0x66 = true ∧
      ({ ex with text := [(0x10002000, 0x66), (0x10002001, 0x0F), (0x10002002, 0x01)] } : State).fetchBytes =
        [0x66, 0x0F, 0x01] := by decide

/-- The three clauses, the second for each of its conditions, with the privilege level next to 3. -/
theorem witness_UnsupportedOrWrongModeRefused :
    ex.eax = 9 ∧ ({ ex with cfg := { ex.cfg with edeccssaSupported := false } } : State).cfg.edeccssaSupported = false ∧
      ex.cfg.edeccssaSupported = true ∧ ({ ex.procMode with pe := false } : ProcMode).pe = false ∧
      ({ ex.procMode with v86 := true } : ProcMode).v86 = true ∧ ({ ex.procMode with smm := true } : ProcMode).smm = true ∧
      ({ ex.procMode with enclaveExt := false } : ProcMode).enclaveExt = false ∧
      ({ ex.procMode with cpl := 2 } : ProcMode).cpl ≠ 3 ∧
      ({ ex.procMode with pg := false } : ProcMode).invalidOpcode = false ∧
      ({ ex.procMode with ne := false } : ProcMode).invalidOpcode = false := by decide

theorem witness_OutsideEnclaveFaults :
    LeafReady { ex with inEnclave := false } ∧ ({ ex with inEnclave := false } : State).inEnclave = false :=
  ⟨leafPremises_ok_iff (u := ()) |>.1 rfl, rfl⟩

theorem witness_ZeroCssaFaults :
    LeafReady (withTcs ex { exTcs with cssa := 0 }) ∧ (withTcs ex { exTcs with cssa := 0 }).inEnclave = true ∧
      EnclaveReady (withTcs ex { exTcs with cssa := 0 }) { exView with tcs := { exTcs with cssa := 0 } } ∧
      LaunchReady (withTcs ex { exTcs with cssa := 0 }) { exView with tcs := { exTcs with cssa := 0 } } :=
  ⟨leafPremises_ok_iff (u := ()) |>.1 rfl, rfl, enclaveView_ok_iff.1 rfl, launchPremises_ok_iff (u := ()) |>.1 rfl⟩

theorem witness_CompletesWithEveryWrite :
    Admitted ex exView ∧ exTargets.xsave.length = npages ex exView ∧
      (∀ n pa, exTargets.xsave[n]? = some pa → RegPageUsable ex exView.owner (xsavePageLa ex exView n) pa) ∧
      RegPageUsable ex exView.owner (gprLa ex exView) exTargets.gpr ∧
      dsContains ex.ds ((framePlan ex.cfg exView).gpr + ex.cfg.gprsgxSize - 1) = true ∧
      cetOn ex.cfg exView.secs = true ∧
      CetPageUsable ex exView.owner (ex.lin (eaPage (cetEntry exTcs exSecs (exTcs.cssa.toNat - 1)))) 0x80020000 :=
  ⟨ex_admitted, ex_frameUsable.xsave.1, ex_frameUsable.xsave.2, ex_frameUsable.gpr, by decide, by decide,
    cetPageCheck_ok_iff.1 rfl⟩

/-- For `CompletesExactlyWhenChecksPass` and the statements of what a completed leaf writes. -/
theorem witness_DecrementsCssa : Admitted ex exView ∧ FrameUsable ex exView exTargets := ⟨ex_admitted, ex_frameUsable⟩

theorem witness_GprPointerWritten : Admitted ex exView ∧ FrameUsable ex exView exTargets := ⟨ex_admitted, ex_frameUsable⟩

/-- Both clauses at their common boundary: page 1 is the last one written, register 2 the first one that is not. -/
theorem witness_XsavePointersWritten :
    Admitted ex exView ∧ FrameUsable ex exView exTargets ∧ 1 < npages ex exView ∧ npages ex exView ≤ 2 :=
  ⟨ex_admitted, ex_frameUsable, by decide, by decide⟩

/-- Both clauses: with `CETON`, and with the CPUID bit clear. -/
theorem witness_CetPointerWritten :
    (Admitted ex exView ∧ FrameUsable ex exView exTargets ∧ cetOn ex.cfg exView.secs = true) ∧
      Admitted { ex with cfg := { ex.cfg with cpuid12_1Eax6 := false } } exView ∧
      FrameUsable { ex with cfg := { ex.cfg with cpuid12_1Eax6 := false } } exView { exTargets with cet := none } ∧
      cetOn { ex.cfg with cpuid12_1Eax6 := false } exView.secs = false :=
  ⟨⟨ex_admitted, ex_frameUsable, by decide⟩, admitted_of rfl rfl rfl rfl (by decide) rfl, frameChecks_ok_iff.1 rfl, by decide⟩

/-- In both modes: the last in 64-bit mode, where the same frame is usable. -/
theorem witness_RipAdvancesByLength :
    (Admitted ex exView ∧ FrameUsable ex exView exTargets) ∧
      Admitted { ex with mode64 := true } exView ∧ FrameUsable { ex with mode64 := true } exView exTargets :=
  ⟨⟨ex_admitted, ex_frameUsable⟩, admitted_of rfl rfl rfl rfl (by decide) rfl, frameChecks_ok_iff.1 rfl⟩

theorem witness_NothingElseIsWritten : ∃ t, exec .edeccssa ex = .next t := ⟨_, rfl⟩

/-- In the mode with the DS base, and in 64-bit mode, at the last address of each and with a base that wraps. -/
theorem witness_LinearAddressOfEffective :
    (0xFFFFFFFF < 2 ^ ex.eaW ∧ ex.mode64 = false ∧ ex.lin 0x10013000 = 0x10013000 ∧
      ({ ex with ds := { ex.ds with base := 2 } } : State).lin 0xFFFFFFFF = 1) ∧
    (0xFFFFFFFFFFFFFFFF < 2 ^ ({ ex with mode64 := true } : State).eaW ∧
      ({ ex with mode64 := true, ds := { ex.ds with base := 2 } } : State).lin 0xFFFFFFFF = 0xFFFFFFFF) := by decide

/-- At the limit, and one above it. -/
theorem witness_ExpandUpSegmentContains :
    ex.ds.expandUp = true ∧ dsContains ex.ds 0x10015FFF = true ∧ dsContains ex.ds 0x10016000 = false := by decide

theorem witness_GprAreaInOnePage : LaunchReady ex exView ∧ FrameReady ex exView := ⟨ex_launchReady, ex_frameReady⟩

/-- Page 1, the last, fails; page 0 before it is usable. -/
theorem witness_FirstBadXsavePageFaults :
    Admitted (withEntry ex 0x80014 { entry 0x14 .reg with blocked := true }) exView ∧
      1 < npages (withEntry ex 0x80014 { entry 0x14 .reg with blocked := true }) exView ∧
      (∀ m < 1, ∃ pa, RegPageUsable (withEntry ex 0x80014 { entry 0x14 .reg with blocked := true }) exView.owner
        (xsavePageLa (withEntry ex 0x80014 { entry 0x14 .reg with blocked := true }) exView m) pa) ∧
      (withEntry ex 0x80014 { entry 0x14 .reg with blocked := true }).accessCheckRW
        (xsavePageLa (withEntry ex 0x80014 { entry 0x14 .reg with blocked := true }) exView 1) = .ok 0x80014000 ∧
      ¬ RegPageUsable (withEntry ex 0x80014 { entry 0x14 .reg with blocked := true }) exView.owner
        (xsavePageLa (withEntry ex 0x80014 { entry 0x14 .reg with blocked := true }) exView 1) 0x80014000 := by
  refine ⟨admitted_of rfl rfl rfl rfl (by decide) rfl, by decide, fun m hm => ?_, rfl, not_regPageUsable (f := _) rfl⟩
  obtain rfl : m = 0 := by omega
  exact ⟨0x80013000, regPageCheck_ok_iff.1 rfl⟩

theorem witness_XsaveAccessFaultDelivered :
    Admitted (withAccess ex 0x10014 (.fault (.pageFault 6))) exView ∧
      1 < npages (withAccess ex 0x10014 (.fault (.pageFault 6))) exView ∧
      (∀ m < 1, ∃ pa, RegPageUsable (withAccess ex 0x10014 (.fault (.pageFault 6))) exView.owner
        (xsavePageLa (withAccess ex 0x10014 (.fault (.pageFault 6))) exView m) pa) ∧
      (withAccess ex 0x10014 (.fault (.pageFault 6))).accessCheckRW
        (xsavePageLa (withAccess ex 0x10014 (.fault (.pageFault 6))) exView 1) = .error (.pf 0x10014000 6) := by
  refine ⟨admitted_of rfl rfl rfl rfl (by decide) rfl, by decide, fun m hm => ?_, rfl⟩
  obtain rfl : m = 0 := by omega
  exact ⟨0x80013000, regPageCheck_ok_iff.1 rfl⟩

/-- Both clauses: the access check of the GPR page faults, and its EPCM entry fails. -/
theorem witness_BadGprPageFaults :
    (Admitted (withAccess ex 0x10015 (.fault (.other 12))) exView ∧
      XsavePagesUsable (withAccess ex 0x10015 (.fault (.other 12))) exView exTargets.xsave ∧
      (withAccess ex 0x10015 (.fault (.other 12))).accessCheckRW
        (gprLa (withAccess ex 0x10015 (.fault (.other 12))) exView) = .error (.access 12)) ∧
    Admitted (withEntry ex 0x80015 { entry 0x15 .reg with valid := false }) exView ∧
      XsavePagesUsable (withEntry ex 0x80015 { entry 0x15 .reg with valid := false }) exView exTargets.xsave ∧
      (withEntry ex 0x80015 { entry 0x15 .reg with valid := false }).accessCheckRW
        (gprLa (withEntry ex 0x80015 { entry 0x15 .reg with valid := false }) exView) = .ok 0x80015F48 ∧
      ¬ RegPageUsable (withEntry ex 0x80015 { entry 0x15 .reg with valid := false }) exView.owner
        (gprLa (withEntry ex 0x80015 { entry 0x15 .reg with valid := false }) exView) 0x80015F48 :=
  ⟨⟨admitted_of rfl rfl rfl rfl (by decide) rfl, xsavePagesUsable_of rfl, rfl⟩,
    admitted_of rfl rfl rfl rfl (by decide) rfl, xsavePagesUsable_of rfl, rfl, not_regPageUsable (f := _) rfl⟩

/-- The last byte of the GPR area is one beyond the limit; in the second clause the mode is 64-bit. -/
theorem witness_DsLimitCheck :
    (Admitted { ex with ds := { ex.ds with limit := 0x10015FFE } } exView ∧
      XsavePagesUsable { ex with ds := { ex.ds with limit := 0x10015FFE } } exView exTargets.xsave ∧
      RegPageUsable { ex with ds := { ex.ds with limit := 0x10015FFE } } exView.owner
        (gprLa { ex with ds := { ex.ds with limit := 0x10015FFE } } exView) exTargets.gpr ∧
      ex.mode64 = false ∧
      dsContains { ex.ds with limit := 0x10015FFE } ((framePlan ex.cfg exView).gpr + ex.cfg.gprsgxSize - 1) = false) ∧
    ({ ex with mode64 := true } : State).mode64 = true :=
  ⟨⟨admitted_of rfl rfl rfl rfl (by decide) rfl, xsavePagesUsable_of rfl, regPageCheck_ok_iff.1 rfl, rfl, by decide⟩, rfl⟩

/-- Both clauses: the access check of the CET save page faults, and the page is `PT_REG` (V28). -/
theorem witness_BadCetPageFaults :
    (Admitted (withAccess ex 0x10020 (.fault .gp0)) exView ∧
      XsavePagesUsable (withAccess ex 0x10020 (.fault .gp0)) exView exTargets.xsave ∧
      RegPageUsable (withAccess ex 0x10020 (.fault .gp0)) exView.owner
        (gprLa (withAccess ex 0x10020 (.fault .gp0)) exView) exTargets.gpr ∧
      DsLimitOk (withAccess ex 0x10020 (.fault .gp0)) exView ∧
      (framePlan ex.cfg exView).cet = some 0x10020010 ∧
      (withAccess ex 0x10020 (.fault .gp0)).accessCheckRW (ex.lin (eaPage 0x10020010)) = .error .gp0) ∧
    Admitted (withEntry ex 0x80020 (entry 0x20 .reg)) exView ∧
      XsavePagesUsable (withEntry ex 0x80020 (entry 0x20 .reg)) exView exTargets.xsave ∧
      RegPageUsable (withEntry ex 0x80020 (entry 0x20 .reg)) exView.owner
        (gprLa (withEntry ex 0x80020 (entry 0x20 .reg)) exView) exTargets.gpr ∧
      DsLimitOk (withEntry ex 0x80020 (entry 0x20 .reg)) exView ∧
      (withEntry ex 0x80020 (entry 0x20 .reg)).accessCheckRW (ex.lin (eaPage 0x10020010)) = .ok 0x80020000 ∧
      ¬ CetPageUsable (withEntry ex 0x80020 (entry 0x20 .reg)) exView.owner (ex.lin (eaPage 0x10020010)) 0x80020000 :=
  ⟨⟨admitted_of rfl rfl rfl rfl (by decide) rfl, xsavePagesUsable_of rfl, regPageCheck_ok_iff.1 rfl,
      dsLimitFails_eq_false_iff.1 rfl, rfl, rfl⟩,
    admitted_of rfl rfl rfl rfl (by decide) rfl, xsavePagesUsable_of rfl, regPageCheck_ok_iff.1 rfl,
    dsLimitFails_eq_false_iff.1 rfl, rfl, not_cetPageUsable (f := _) rfl⟩

theorem witness_GpCausesComplete : exec .edeccssa { ex with inEnclave := false } = .fault .gp0 := rfl

theorem witness_PfCausesComplete :
    exec .edeccssa (withAccess ex 0x10014 (.fault (.pageFault 6))) = .fault (.pf 0x10014000 6) := rfl

/-- Both clauses: the first and the last byte of a page, and a listed page fault. -/
theorem witness_AccessCheckIsPageGranular :
    pageOf 0x10014000 = pageOf 0x10014FFF ∧ pageOf 0x10014FFF ≠ pageOf 0x10015000 ∧
      ex.accessCheckRW 0x10030004 = .error (.pf 0x10030004 6) := ⟨by decide, by decide, rfl⟩

/-- An XSAVE size of one page, with `CSSA = 2`; the next theorem is the same with `CSSA = 0`. -/
theorem witness_XsizePageMultipleRefused :
    LeafReady { ex with cfg := { ex.cfg with xsaveFrameSizes := [(3, 4096)] } } ∧
      EnclaveReady { ex with cfg := { ex.cfg with xsaveFrameSizes := [(3, 4096)] } } exView ∧
      ex.inEnclave = true ∧ exSecs.baseAddr.toNat % 4096 = 0 ∧
      exTcs.ossa.toNat % 4096 = 0 ∧ 1 ≤ ex.cfg.gprsgxSize ∧ ex.cfg.gprsgxSize ≤ 4096 ∧
      xsaveFrameSize { ex.cfg with xsaveFrameSizes := [(3, 4096)] } exSecs.xfrm % 4096 = 0 :=
  ⟨leafPremises_ok_iff (u := ()) |>.1 rfl, enclaveView_ok_iff.1 rfl, rfl, by decide, by decide, by decide, by decide,
    by decide⟩

theorem witness_XsizePageMultipleRefused_zeroCssa :
    LeafReady (withTcs { ex with cfg := { ex.cfg with xsaveFrameSizes := [(3, 4096)] } } { exTcs with cssa := 0 }) ∧
      ex.inEnclave = true ∧
      EnclaveReady (withTcs { ex with cfg := { ex.cfg with xsaveFrameSizes := [(3, 4096)] } } { exTcs with cssa := 0 })
        { exView with tcs := { exTcs with cssa := 0 } } ∧
      exSecs.baseAddr.toNat % 4096 = 0 ∧ exTcs.ossa.toNat % 4096 = 0 ∧ 1 ≤ ex.cfg.gprsgxSize ∧
      ex.cfg.gprsgxSize ≤ 4096 ∧ xsaveFrameSize { ex.cfg with xsaveFrameSizes := [(3, 4096)] } exSecs.xfrm % 4096 = 0 :=
  ⟨leafPremises_ok_iff (u := ()) |>.1 rfl, rfl, enclaveView_ok_iff.1 rfl, by decide, by decide, by decide, by decide,
    by decide⟩

/-- The example state with other enclave values: what `AddressOutOfRangeRefused` asks for besides its last hypothesis. -/
def MeetsPremisesBeforeRange (s : State) (v : EnclaveView) : Prop :=
  LeafReady s ∧ s.inEnclave = true ∧ EnclaveReady s v ∧ v.tcs.cssa ≠ 0 ∧ targetFrame v.tcs ∉ v.tcs.framesInUse ∧
    v.secs.baseAddr.toNat % 4096 = 0 ∧ v.tcs.ossa.toNat % 4096 = 0 ∧ 1 ≤ s.cfg.gprsgxSize ∧ s.cfg.gprsgxSize ≤ 4096 ∧
    xsaveFrameSize s.cfg v.secs.xfrm % 4096 ≠ 0

/-- The example view with `CSSA = 1`, so that the target frame is frame 0, and these enclave values. -/
def rangeView (base ossa ocetssa : BitVec 64) (frameSize : BitVec 32) : EnclaveView :=
  { exView with
    tcs := { exTcs with cssa := 1, ossa := ossa, ocetssa := ocetssa }
    secs := { exSecs with baseAddr := base, ssaFrameSize := frameSize } }

def rangeState (v : EnclaveView) : State := { withTcs ex v.tcs with secss := [(1, v.secs)] }

/-- The three clauses at their boundaries: `OSSA` one off, with `CSSA = 0` and with `CSSA = 2`, `GPRSGX_SIZE` 0 and 4097, and `OCETSSA = 2^32` outside 64-bit
mode with the CET part off. -/
theorem witness_LaunchPremisesRefused :
    (EnclaveReady (withTcs ex { exTcs with cssa := 0, ossa := 0x10001 })
        { exView with tcs := { exTcs with cssa := 0, ossa := 0x10001 } } ∧
      EnclaveReady (withTcs ex { exTcs with ossa := 0x10001 }) { exView with tcs := { exTcs with ossa := 0x10001 } } ∧
      (0x10001 : BitVec 64).toNat % 4096 ≠ 0) ∧
    (EnclaveReady { ex with cfg := { ex.cfg with gprsgxSize := 0 } } exView ∧ (0 < 1 ∨ 4096 < 0) ∧
      EnclaveReady { ex with cfg := { ex.cfg with gprsgxSize := 4097 } } exView ∧ (4097 < 1 ∨ 4096 < 4097) ∧
      exSecs.baseAddr.toNat % 4096 = 0 ∧ exTcs.ossa.toNat % 4096 = 0) ∧
    EnclaveReady (withTcs { ex with cfg := { ex.cfg with cpuid12_1Eax6 := false } } { exTcs with ocetssa := 0x100000000 })
        { exView with tcs := { exTcs with ocetssa := 0x100000000 } } ∧
      1 ≤ ex.cfg.gprsgxSize ∧ ex.cfg.gprsgxSize ≤ 4096 ∧ xsaveFrameSize ex.cfg exSecs.xfrm % 4096 ≠ 0 ∧
      ex.mode64 = false ∧ 2 ^ 32 ≤ (0x100000000 : BitVec 64).toNat ∧ LeafReady ex ∧ ex.inEnclave = true :=
  ⟨⟨enclaveView_ok_iff.1 rfl, enclaveView_ok_iff.1 rfl, by decide⟩,
    ⟨enclaveView_ok_iff.1 rfl, by decide, enclaveView_ok_iff.1 rfl, by decide, by decide, by decide⟩,
    enclaveView_ok_iff.1 rfl, by decide, by decide, by decide, by decide, by decide, ex_leafReady, rfl⟩

/-- The first clause at its boundary (V34): `TMP_SSA = 2^32` outside 64-bit mode. -/
theorem witness_AddressOutOfRangeRefused_ssa :
    MeetsPremisesBeforeRange (rangeState (rangeView 0xFFFF0000 0x10000 0 1)) (rangeView 0xFFFF0000 0x10000 0 1) ∧
      (framePlan ex.cfg (rangeView 0xFFFF0000 0x10000 0 1)).ssa = 2 ^ ex.eaW :=
  ⟨⟨leafPremises_ok_iff (u := ()) |>.1 rfl, rfl, enclaveView_ok_iff.1 rfl, by decide, by decide, by decide, by decide,
    by decide, by decide, by decide⟩, by decide⟩

/-- The second and the fourth and fifth: the frame begins at the last page below `2^32`, so XSAVE page 1 and the GPR
area are beyond it. -/
theorem witness_AddressOutOfRangeRefused_pages :
    MeetsPremisesBeforeRange (rangeState (rangeView 0xFFFF0000 0xF000 0 2)) (rangeView 0xFFFF0000 0xF000 0 2) ∧
      (framePlan ex.cfg (rangeView 0xFFFF0000 0xF000 0 2)).ssa < 2 ^ ex.eaW ∧
      1 < npages (rangeState (rangeView 0xFFFF0000 0xF000 0 2)) (rangeView 0xFFFF0000 0xF000 0 2) ∧
      2 ^ ex.eaW ≤ xsavePage (framePlan ex.cfg (rangeView 0xFFFF0000 0xF000 0 2)).ssa 1 + 4095 ∧
      2 ^ ex.eaW ≤ (framePlan ex.cfg (rangeView 0xFFFF0000 0xF000 0 2)).gpr ∧
      2 ^ ex.eaW ≤ (framePlan ex.cfg (rangeView 0xFFFF0000 0xF000 0 2)).gpr + ex.cfg.gprsgxSize - 1 :=
  ⟨⟨leafPremises_ok_iff (u := ()) |>.1 rfl, rfl, enclaveView_ok_iff.1 rfl, by decide, by decide, by decide, by decide,
    by decide, by decide, by decide⟩, by decide, by decide, by decide, by decide, by decide⟩

/-- The third: a frame of no page at address 0, so `TMP_GPR` would be negative. -/
theorem witness_AddressOutOfRangeRefused_negative :
    MeetsPremisesBeforeRange (rangeState (rangeView 0 0 0 0)) (rangeView 0 0 0 0) ∧
      (framePlan ex.cfg (rangeView 0 0 0 0)).ssa + 4096 * (rangeView 0 0 0 0).secs.ssaFrameSize.toNat <
        ex.cfg.gprsgxSize :=
  ⟨⟨leafPremises_ok_iff (u := ()) |>.1 rfl, rfl, enclaveView_ok_iff.1 rfl, by decide, by decide, by decide, by decide,
    by decide, by decide, by decide⟩, by decide⟩

/-- The sixth at its boundary: the last byte of the CET entry is at `2^32`. -/
theorem witness_AddressOutOfRangeRefused_cet :
    MeetsPremisesBeforeRange (rangeState (rangeView 0x10000000 0x10000 0xEFFFFFF1 1))
        (rangeView 0x10000000 0x10000 0xEFFFFFF1 1) ∧
      cetOn ex.cfg (rangeView 0x10000000 0x10000 0xEFFFFFF1 1).secs = true ∧
      cetEntry (rangeView 0x10000000 0x10000 0xEFFFFFF1 1).tcs (rangeView 0x10000000 0x10000 0xEFFFFFF1 1).secs
        ((rangeView 0x10000000 0x10000 0xEFFFFFF1 1).tcs.cssa.toNat - 1) + 15 = 2 ^ ex.eaW :=
  ⟨⟨leafPremises_ok_iff (u := ()) |>.1 rfl, rfl, enclaveView_ok_iff.1 rfl, by decide, by decide, by decide, by decide,
    by decide, by decide, by decide⟩, by decide, by decide⟩

theorem witness_UnreadStateDoesNotMatter : ∃ t, exec .edeccssa ex = .next t := ⟨_, rfl⟩

theorem witness_UpperHalfOfRaxIgnored : (0x9 : BitVec 64).setWidth 32 = ex.eax ∧ ex.rax ≠ 0x9 := by decide

theorem witness_CetOffReadsNoOcetssa :
    EnclaveReady { ex with cfg := { ex.cfg with cpuid12_1Eax6 := false } } exView ∧
      cetOn { ex.cfg with cpuid12_1Eax6 := false } exView.secs = false ∧ ex.mode64 = false ∧
      exView.tcs.ocetssa.toNat < 2 ^ 32 ∧ (0xFFFFFFFF : BitVec 64).toNat < 2 ^ 32 :=
  ⟨enclaveView_ok_iff.1 rfl, by decide, by decide, by decide, by decide⟩

/-- With the EPCM entry and the answer of a page of the frame between the XSAVE area and the GPR page taken away, and
those of frame 0. The pages examined are `0x10013`, `0x10014`, `0x10015` and `0x10020`. -/
theorem witness_OnlyExaminedPagesMatter :
    EnclaveReady ex exView ∧ assocFind (assocErase ex.epcm 0x80010) (pageNo ex.crTcsPa) = ex.epcmEntry ex.crTcsPa ∧
      ∀ la, Examined ex exView la →
        assocFind (assocErase ex.access 0x10010) (pageNo la) = assocFind ex.access (pageNo la) ∧
          ∀ pa, ex.accessCheckRW la = .ok pa → assocFind (assocErase ex.epcm 0x80010) (pageNo pa) = ex.epcmEntry pa := by
  have hpages : ∀ la, Examined ex exView la →
      la = 0x10013000 ∨ la = 0x10014000 ∨ la = 0x10015F48 ∨ la = 0x10020000 := by
    rintro la (⟨n, hn, rfl⟩ | rfl | ⟨area, harea, rfl⟩)
    · have hn2 : n < 2 := hn
      interval_cases n
      · exact .inl rfl
      · exact .inr (.inl rfl)
    · exact .inr (.inr (.inl rfl))
    · obtain rfl : (0x10020010 : Nat) = area := Option.some.inj harea
      exact .inr (.inr (.inr rfl))
  refine ⟨ex_enclaveReady, rfl, fun la hla => ?_⟩
  rcases hpages la hla with rfl | rfl | rfl | rfl <;>
    exact ⟨rfl, fun pa hpa => by rw [← Except.ok.inj hpa]; rfl⟩

theorem witness_EveryStepKeepsTheInvariant : ex.Inv ∧ ∃ t, step ex = .next t := by
  refine ⟨?_, _, rfl⟩
  refine ⟨by decide, by decide, by decide, by decide, by decide, by decide, by decide, by decide, by decide, ?_,
    by decide, by decide, by decide, by decide, by decide⟩
  intro e he f hf
  have hall : ∀ e ∈ ex.access, (match e.2 with | .ok f => f.toNat + 1 ≤ 0x100000 | .fault _ => True) := by
    simp [ex]
  have h := hall e he
  rw [hf] at h
  show (f.toNat + 1) * 4096 ≤ 2 ^ 52
  have h : f.toNat + 1 ≤ 0x100000 := h
  omega

theorem witness_RunCountsCssaDown : ∃ t, runOf 2 ex = .next t := ⟨_, rfl⟩

theorem witness_NoSafeRunLongerThanCssa : ex.cssa? = some 2 ∧ (2 : BitVec 32).toNat < 3 := by decide

theorem witness_RunPopsKFrames :
    assocFind ex.tcss ex.crTcsPa.toNat = some exTcs ∧
      ∀ i < 2, (ex.popped exTcs i).fetchBytes = encode .edeccssa ∧
        ∃ v x, Admitted (ex.popped exTcs i) v ∧ FrameUsable (ex.popped exTcs i) v x := by
  refine ⟨rfl, fun i hi => ?_⟩
  interval_cases i
  · exact ⟨rfl, exView, exTargets, admitted_of rfl rfl rfl rfl (by decide) rfl, frameChecks_ok_iff.1 rfl⟩
  · exact ⟨rfl, { exView with tcs := { exTcs with cssa := 1 } },
      { xsave := [0x80010000, 0x80011000], gpr := 0x80012F48, cet := some 0x80020000 },
      admitted_of rfl rfl rfl rfl (by decide) rfl, frameChecks_ok_iff.1 rfl⟩

theorem witness_RunsLeaveTheRestAlone : ∃ t, runOf 2 ex = .next t := ⟨_, rfl⟩

/-- After the second instruction of the example's text. -/
theorem witness_ProgramEndIsRefused :
    ∃ s t, runOf 1 ex = .next s ∧ step s = .next t ∧ Memory.read t.text (t.fetchAddr 0) = none :=
  ⟨_, _, rfl, rfl, rfl⟩

end Sys2Proof.Machine.Tests
end

section
namespace Sys2Proof.Machine

/-! ### One step, by what the bytes at `RIP` decode to (00_scope.md R8, 60_exceptions.md R115) -/

theorem step_of_decode_ok {s : State} {i : Instr} {rest : List Byte}
    (hdec : decode s.fetchBytes = .ok (i, rest)) : step s = exec i s := by
  simp only [step, hdec]

theorem step_of_decode_error {s : State} {e : DecodeError}
    (hdec : decode s.fetchBytes = .error e) : step s = refuse (decodeRefusal e) := by
  simp only [step, hdec]

/-- Settles O1, by the case of `step` for bytes that decode, which asks nothing of the instruction's
well-formedness. -/
theorem stepRunsDecodedInstruction : Obligations.StepRunsDecodedInstruction := by
  intro s i rest hdec _hwf
  exact step_of_decode_ok hdec

end Sys2Proof.Machine
end

section
namespace Sys2Proof.Machine

/-! ### When the leaf and a step answer a next state -/

/-- The leaf answers a next state exactly as the commit of an admitted state whose target frame is usable
(40_edeccssa.md R84 to R89). -/
theorem exec_eq_next_iff {s t : State} :
    exec .edeccssa s = .next t ↔ ∃ v x, Admitted s v ∧ FrameUsable s v x ∧ t = s.complete v.tcs x := by
  constructor
  · intro h
    change execEdeccssa s = .next t at h
    rcases execEdeccssa_cases s with ⟨-, r, he⟩ | ⟨-, -, he⟩ | ⟨-, -, -, r, he⟩ | ⟨-, -, v, -, hv⟩
    · cases he.symm.trans h
    · cases he.symm.trans h
    · cases he.symm.trans h
    rcases hv with ⟨-, r, he⟩ | ⟨-, -, he⟩ | ⟨-, -, -, r, he⟩ | ⟨-, f, -, he⟩ | ⟨hadm, x, hx, he⟩
    · cases he.symm.trans h
    · cases he.symm.trans h
    · cases he.symm.trans h
    · cases he.symm.trans h
    · cases he.symm.trans h
      exact ⟨v, x, hadm, hx, rfl⟩
  · rintro ⟨v, x, hadm, hx, rfl⟩
    change execEdeccssa s = _
    simp [execEdeccssa, leafPremises_ok_iff (u := ()) |>.2 hadm.leaf, hadm.inEnclave, enclaveView_ok_iff.2 hadm.enclave,
      launchPremises_ok_iff (u := ()) |>.2 hadm.launch, hadm.cssa, framePremises_ok_iff (u := ()) |>.2 hadm.frame,
      frameChecks_ok_iff.2 hx]

/-- A step that answers a next state has executed the leaf to completion. -/
theorem step_next {s t : State} (h : step s = .next t) :
    ∃ v x, Admitted s v ∧ FrameUsable s v x ∧ t = s.complete v.tcs x := by
  cases hdec : decode s.fetchBytes with
  | error e => cases (step_of_decode_error hdec).symm.trans h
  | ok d =>
    obtain ⟨i, rest⟩ := d
    cases i
    exact exec_eq_next_iff.1 ((step_of_decode_ok hdec).symm.trans h)

/-- What every commit of the leaf keeps, every run keeps. -/
theorem runOf_keeps {α : Type} {f : State → α} (hf : ∀ s tcs x, f (State.complete s tcs x) = f s) {k : Nat}
    {s t : State} (h : runOf k s = .next t) : f t = f s := by
  induction k generalizing s with
  | zero =>
    cases h
    rfl
  | succ k ih =>
    obtain ⟨u, hstep, hrun⟩ := runOf_succ_eq_next_iff.1 h
    obtain ⟨v, x, -, -, rfl⟩ := step_next hstep
    exact (ih hrun).trans (hf s v.tcs x)

/-! ### `RIP` after the leaf (10_state.md R12) -/

theorem eaW_le (s : State) : s.eaW ≤ 64 := by
  unfold State.eaW
  split <;> omega

theorem nextRip_toNat (s : State) : s.nextRip.toNat = (s.rip.toNat + 3) % 2 ^ s.eaW := by
  have hlt : (s.rip.toNat + 3) % 2 ^ s.eaW < 2 ^ s.eaW := Nat.mod_lt _ (Nat.two_pow_pos _)
  have hpow : 2 ^ s.eaW ≤ 2 ^ 64 := Nat.pow_le_pow_right (by decide) (eaW_le s)
  rw [State.nextRip, State.truncateEa, encluLen, BitVec.toNat_ofNat, Nat.mod_eq_of_lt (by omega)]

theorem nextRip_lt (s : State) : s.nextRip.toNat < 2 ^ s.eaW := by
  rw [nextRip_toNat]
  exact Nat.mod_lt _ (Nat.two_pow_pos _)

/-! ### The width of the physical addresses that the checks answer (00_scope.md R5) -/

section Width
variable {s : State} {la pa : Addr}

/-- Any byte of the page frame that the access check found has an address of `PA_W` bits. -/
theorem State.Inv.frame_byte_fits (hinv : s.Inv) {frame : BitVec 52} {o : Nat}
    (hframe : assocFind s.access (pageNo la) = some (.ok frame)) (ho : o < 4096) : FitsPaW s (physAddr frame o) := by
  have hfit := hinv.framesFit _ (assocFind_mem hframe) frame rfl
  rw [FitsPaW, physAddr_toNat ho]
  omega

theorem State.Inv.accessCheckRW_fits (hinv : s.Inv) (h : s.accessCheckRW la = .ok pa) : FitsPaW s pa := by
  obtain ⟨frame, hframe, rfl⟩ := accessCheckRW_ok_iff.1 h
  exact hinv.frame_byte_fits hframe (offOf_lt la)

theorem physAddr_zero_add (frame : BitVec 52) (o : Nat) : physAddr frame 0 + BitVec.ofNat 64 o = physAddr frame o := by
  apply BitVec.eq_of_toNat_eq
  simp [physAddr]

/-- The linear address of a usable CET save page is the start of a page, as R83 compares it with one. -/
theorem CetPageUsable.offOf_eq_zero {owner : Nat} (h : CetPageUsable s owner la pa) : offOf la = 0 := by
  obtain ⟨-, e, -, -, -, -, -, -, -, hla, -, -⟩ := h
  rw [← hla, offOf, pageOf_toNat]
  exact Nat.mul_mod_left _ _

/-- The address that the CET part keeps has `PA_W` bits: the offset stays in the page (40_edeccssa.md R88). -/
theorem State.Inv.cetPartOk_fits (hinv : s.Inv) {v : EnclaveView} (h : CetPartOk s v (some pa)) : FitsPaW s pa := by
  unfold CetPartOk at h
  split at h
  · cases h
  · next area _ =>
    obtain ⟨pagePa, husable, hpa⟩ := h
    obtain ⟨frame, hframe, rfl⟩ := accessCheckRW_ok_iff.1 husable.1
    rw [Option.some.inj hpa, husable.offOf_eq_zero, physAddr_zero_add]
    exact hinv.frame_byte_fits hframe (Nat.mod_lt _ (by decide))

end Width

/-! ### The invariant -/

/-- The commit of a usable frame keeps the invariant: the TCS table and the `CR_XSAVE_PAGE_n` stay canonical, and every
address written is one that the checks answered. -/
theorem State.Inv.complete {s : State} (hinv : s.Inv) {v : EnclaveView} {x : Targets} (hx : FrameUsable s v x) :
    (s.complete v.tcs x).Inv where
  text := hinv.text
  mem := hinv.mem
  tcss := assocRising_put _ _ hinv.tcss
  secss := hinv.secss
  epcm := hinv.epcm
  access := hinv.access
  xsavePages := writeXsavePageRegs_rising 0 x.xsave hinv.xsavePages
  xsavePagesListed := fun e he =>
    (mem_writeXsavePageRegs he).elim (hinv.xsavePagesListed e) And.right
  paW := hinv.paW
  framesFit := hinv.framesFit
  tcsFits := hinv.tcsFits
  gprFits := hinv.accessCheckRW_fits hx.gpr.1
  cetFits := by
    rw [State.complete_crCetSaveAreaPa]
    have hcet := hx.cet
    cases hkept : x.cet with
    | none => exact hinv.cetFits
    | some pa => exact hinv.cetPartOk_fits (hkept ▸ hcet)
  xsavePagesFit := by
    intro e he
    rcases mem_writeXsavePageRegs he with hold | ⟨hnew, -⟩
    · exact hinv.xsavePagesFit e hold
    · obtain ⟨n, hn⟩ := List.mem_iff_getElem?.1 hnew
      exact hinv.accessCheckRW_fits (hx.xsave.2 n e.2 hn).1
  rip := nextRip_lt s

/-- Settles O37: a step that answers a next state is the commit of a usable frame. -/
theorem everyStepKeepsTheInvariant : Obligations.EveryStepKeepsTheInvariant := by
  intro s t hinv hstep
  obtain ⟨v, x, -, hx, rfl⟩ := step_next hstep
  exact hinv.complete hx

/-! ### The writes and the frame of the leaf -/

/-- Settles O17: the commit writes `nextRip`. -/
theorem ripAdvancesByLength : Obligations.RipAdvancesByLength := by
  intro s v x hadm hx
  exact ⟨s.complete v.tcs x, exec_eq_next_iff.2 ⟨v, x, hadm, hx, rfl⟩, nextRip_toNat s⟩

/-- Settles O18: the next state is the commit, which writes one TCS, and of it `CSSA`. -/
theorem nothingElseIsWritten : Obligations.NothingElseIsWritten := by
  intro s t hexec
  obtain ⟨v, x, hadm, -, rfl⟩ := exec_eq_next_iff.1 hexec
  have hother : ∀ pa, pa ≠ s.crTcsPa.toNat → assocFind (s.complete v.tcs x).tcss pa = assocFind s.tcss pa :=
    fun pa hpa => assocFind_put_other _ _ hpa
  have hself : assocFind (s.complete v.tcs x).tcss s.crTcsPa.toNat = some v.tcs.decrementCssa :=
    assocFind_put_self _ _ _
  exact ⟨rfl, rfl, rfl, rfl, rfl, rfl, rfl, rfl, rfl, rfl, fun _ => rfl, fun _ => rfl, fun _ => rfl, fun _ => rfl,
    fun _ => rfl, hother, v.tcs, v.tcs.decrementCssa, hadm.enclave.tcs, hself, rfl⟩

/-- Settles O41, by induction on the number of executions (`runOf_keeps`), once for each component. -/
theorem runsLeaveTheRestAlone : Obligations.RunsLeaveTheRestAlone := by
  intro k s t hrun
  exact ⟨runOf_keeps State.complete_cfg hrun, runOf_keeps State.complete_text hrun,
    runOf_keeps State.complete_mem hrun, runOf_keeps State.complete_secss hrun, runOf_keeps State.complete_epcm hrun,
    runOf_keeps State.complete_access hrun, runOf_keeps State.complete_ds hrun, runOf_keeps State.complete_mode64 hrun,
    runOf_keeps State.complete_procMode hrun, runOf_keeps State.complete_inEnclave hrun,
    runOf_keeps State.complete_rax hrun⟩

end Sys2Proof.Machine
end

section
namespace Sys2Proof.Machine

/-! ### States that the leaf does not tell apart -/

/-- The outcomes of two states end alike: with the same fault, with the same refusal, or each with its own state's
commit of the same TCS and the same addresses. -/
inductive EndAlike (s s' : State) : (o o' : Host.Outcome State Fault Refusal) → Prop where
  | commit (tcs : Tcs) (x : Targets) : EndAlike s s' (.next (s.complete tcs x)) (.next (s'.complete tcs x))
  | fault (f : Fault) : EndAlike s s' (.fault f) (.fault f)
  | refused (r : Refusal) : EndAlike s s' (.refused r) (.refused r)

section EndAlike
variable {s s' : State} {o o' : Host.Outcome State Fault Refusal}

/-- Where the two commits differ by `f`, so do the outcomes. -/
theorem EndAlike.eq_mapNext (h : EndAlike s s' o o') {f : State → State}
    (hf : ∀ tcs x, s'.complete tcs x = f (s.complete tcs x)) : o' = mapNext f o := by
  cases h with
  | commit tcs x => exact congrArg Host.Outcome.next (hf tcs x)
  | fault => rfl
  | refused => rfl

/-- Where the two commits are equal, so are the outcomes. -/
theorem EndAlike.eq (h : EndAlike s s' o o') (hc : ∀ tcs x, s'.complete tcs x = s.complete tcs x) : o' = o := by
  cases h with
  | commit tcs x => exact congrArg Host.Outcome.next (hc tcs x)
  | fault => rfl
  | refused => rfl

theorem EndAlike.fault_iff (h : EndAlike s s' o o') (f : Fault) : o' = .fault f ↔ o = .fault f := by
  cases h <;> simp

theorem EndAlike.refused_iff (h : EndAlike s s' o o') (r : Refusal) : o' = .refused r ↔ o = .refused r := by
  cases h <;> simp

theorem EndAlike.next {t : State} (h : EndAlike s s' o o') (ht : o = .next t) :
    ∃ tcs x, t = s.complete tcs x ∧ o' = .next (s'.complete tcs x) := by
  cases h with
  | commit tcs x =>
    cases ht
    exact ⟨tcs, x, rfl, rfl⟩
  | fault => cases ht
  | refused => cases ht

/-- The leaf ends alike where each of its tests answers alike. The tests after the premises L5 and L6 need to do so only
for the view of the enclave that meets these. -/
theorem exec_endAlike_of_tests (hleaf : s'.leafPremises = s.leafPremises) (hin : s'.inEnclave = s.inEnclave)
    (hview : s'.enclaveView = s.enclaveView)
    (hlaunch : ∀ v, EnclaveReady s v → s'.launchPremises v = s.launchPremises v)
    (hframe : ∀ v, EnclaveReady s v → s'.framePremises v = s.framePremises v)
    (hchecks : ∀ v, EnclaveReady s v →
      s'.frameChecks v.owner (framePlan s'.cfg v) = s.frameChecks v.owner (framePlan s.cfg v)) :
    EndAlike s s' (exec .edeccssa s) (exec .edeccssa s') := by
  change EndAlike s s' (execEdeccssa s) (execEdeccssa s')
  unfold execEdeccssa
  rw [hleaf, hin, hview]
  cases s.leafPremises with
  | error r => exact .refused r
  | ok _ =>
  cases s.inEnclave with
  | false => exact .fault .gp0
  | true =>
  cases hv : s.enclaveView with
  | error r => exact .refused r
  | ok v =>
  have hready := enclaveView_ok_iff.1 hv
  simp only [hlaunch v hready, hframe v hready, hchecks v hready]
  cases s.launchPremises v with
  | error r => exact .refused r
  | ok _ =>
  by_cases hcssa : v.tcs.cssa = 0#32
  · simp only [hcssa]
    exact .fault .gp0
  simp only [hcssa]
  cases s.framePremises v with
  | error r => exact .refused r
  | ok _ =>
  cases s.frameChecks v.owner (framePlan s.cfg v) with
  | error f => exact .fault f
  | ok x => exact .commit v.tcs x

end EndAlike

/-! ### What the leaf reads -/

/-- `s'` agrees with `s` on everything that the tests of the leaf read. What is missing: the upper half of `RAX`, the
other registers, `RIP`, the flags, the text, memory, and the `CR_` registers that the leaf writes. -/
structure SameReads (s s' : State) : Prop where
  eax : s'.eax = s.eax
  inEnclave : s'.inEnclave = s.inEnclave
  mode64 : s'.mode64 = s.mode64
  procMode : s'.procMode = s.procMode
  ds : s'.ds = s.ds
  crTcsPa : s'.crTcsPa = s.crTcsPa
  crActiveSecs : s'.crActiveSecs = s.crActiveSecs
  tcss : s'.tcss = s.tcss
  secss : s'.secss = s.secss
  epcm : s'.epcm = s.epcm
  access : s'.access = s.access
  cfg : s'.cfg = s.cfg
  draws : s'.draws = s.draws

namespace SameReads
variable {s s' : State}

theorem eaW (h : SameReads s s') : s'.eaW = s.eaW := by
  rw [State.eaW, State.eaW, h.mode64]

theorem lin (h : SameReads s s') (x : Nat) : s'.lin x = s.lin x := by
  rw [State.lin, State.lin, h.mode64, h.ds]

theorem accessCheckRW (h : SameReads s s') (la : Addr) : s'.accessCheckRW la = s.accessCheckRW la := by
  rw [State.accessCheckRW, State.accessCheckRW, h.access, h.draws]

theorem epcmEntry (h : SameReads s s') (pa : Addr) : s'.epcmEntry pa = s.epcmEntry pa := by
  rw [State.epcmEntry, State.epcmEntry, h.epcm]

theorem epcmFault (h : SameReads s s') (la : Addr) : s'.epcmFault la = s.epcmFault la := by
  rw [State.epcmFault, State.epcmFault, h.draws]

theorem regPageCheck (h : SameReads s s') (owner : Nat) (la : Addr) :
    s'.regPageCheck owner la = s.regPageCheck owner la := by
  simp only [State.regPageCheck, h.accessCheckRW, h.epcmEntry, h.epcmFault]

theorem cetPageCheck (h : SameReads s s') (owner : Nat) (la : Addr) :
    s'.cetPageCheck owner la = s.cetPageCheck owner la := by
  simp only [State.cetPageCheck, h.accessCheckRW, h.epcmEntry, h.epcmFault]

theorem xsavePageChecks (h : SameReads s s') (owner ssa n k : Nat) :
    s'.xsavePageChecks owner ssa n k = s.xsavePageChecks owner ssa n k := by
  induction k generalizing n with
  | zero => rfl
  | succ k ih => simp only [State.xsavePageChecks, h.lin, h.regPageCheck, ih]

theorem cetCheck (h : SameReads s s') (owner : Nat) (area : Option Nat) :
    s'.cetCheck owner area = s.cetCheck owner area := by
  cases area with
  | none => rfl
  | some area => simp only [State.cetCheck, h.lin, h.cetPageCheck]

theorem dsLimitFails (h : SameReads s s') (gpr : Nat) : s'.dsLimitFails gpr = s.dsLimitFails gpr := by
  rw [State.dsLimitFails, State.dsLimitFails, h.mode64, h.ds, h.cfg]

theorem frameChecks (h : SameReads s s') (owner : Nat) (p : FramePlan) :
    s'.frameChecks owner p = s.frameChecks owner p := by
  simp only [State.frameChecks, h.xsavePageChecks, h.lin, h.regPageCheck, h.dsLimitFails, h.cetCheck]

theorem leafPremises (h : SameReads s s') : s'.leafPremises = s.leafPremises := by
  rw [State.leafPremises, State.leafPremises, h.eax, h.cfg, h.procMode]

theorem enclaveView (h : SameReads s s') : s'.enclaveView = s.enclaveView := by
  simp only [State.enclaveView, h.tcss, h.crTcsPa, h.epcmEntry, h.secss, h.crActiveSecs]

theorem launchPremises (h : SameReads s s') (v : EnclaveView) : s'.launchPremises v = s.launchPremises v := by
  rw [State.launchPremises, State.launchPremises, h.cfg, h.mode64]

theorem framePremises (h : SameReads s s') (v : EnclaveView) : s'.framePremises v = s.framePremises v := by
  rw [State.framePremises, State.framePremises, h.cfg, h.eaW]

/-- The leaf ends alike on states that agree on what it reads. -/
theorem exec_endAlike (h : SameReads s s') : EndAlike s s' (exec .edeccssa s) (exec .edeccssa s') :=
  exec_endAlike_of_tests h.leafPremises h.inEnclave h.enclaveView (fun v _ => h.launchPremises v)
    (fun v _ => h.framePremises v) (fun v _ => by rw [h.cfg, h.frameChecks])

end SameReads

/-- Settles O33: of `RAX` the tests read `EAX` only. -/
theorem upperHalfOfRaxIgnored : Obligations.UpperHalfOfRaxIgnored := by
  intro s rax heax
  have hsame : SameReads s { s with rax := rax } :=
    { eax := heax, inEnclave := rfl, mode64 := rfl, procMode := rfl, ds := rfl, crTcsPa := rfl, crActiveSecs := rfl,
      tcss := rfl, secss := rfl, epcm := rfl, access := rfl, cfg := rfl, draws := rfl }
  exact hsame.exec_endAlike.eq_mapNext fun _ _ => rfl

/-- A register of the family after the same pages are written over two families: the same, or one that neither write
reaches. -/
theorem xsavePageReg_writeRegs_two (regs regs' : Assoc Addr) (pas : List Addr) (n : Nat) :
    xsavePageReg (writeXsavePageRegs regs' 0 pas) n = xsavePageReg (writeXsavePageRegs regs 0 pas) n ∨
      (xsavePageReg (writeXsavePageRegs regs 0 pas) n = xsavePageReg regs n ∧
        xsavePageReg (writeXsavePageRegs regs' 0 pas) n = xsavePageReg regs' n) := by
  simp only [xsavePageReg_writeRegs _ pas (Nat.zero_le n)]
  cases pas[n - 0]? with
  | none => exact .inr ⟨rfl, rfl⟩
  | some pa => exact .inl rfl

/-- Settles O32: none of the components named is among those that the tests read (`SameReads`). -/
theorem unreadStateDoesNotMatter : Obligations.UnreadStateDoesNotMatter := by
  refine ⟨fun s regs flags mem text => ?_, fun s pa => ?_, fun s regs cetPa => ?_⟩
  · have hsame : SameReads s { s with otherRegs := regs, rflags := flags, mem := mem, text := text } := by
      constructor <;> rfl
    exact hsame.exec_endAlike.eq_mapNext fun _ _ => rfl
  · have hsame : SameReads s { s with crGprPa := pa } := by
      constructor <;> rfl
    exact hsame.exec_endAlike.eq fun _ _ => rfl
  · have hsame : SameReads s { s with crXsavePages := regs, crCetSaveAreaPa := cetPa } := by
      constructor <;> rfl
    refine ⟨hsame.exec_endAlike.fault_iff, hsame.exec_endAlike.refused_iff, fun t ht => ?_⟩
    obtain ⟨tcs, x, rfl, ht'⟩ := hsame.exec_endAlike.next ht
    refine ⟨_, ht', rfl, xsavePageReg_writeRegs_two s.crXsavePages regs x.xsave, ?_⟩
    simp only [State.complete_crCetSaveAreaPa]
    cases x.cet with
    | none => exact .inr ⟨rfl, rfl⟩
    | some pa => exact .inl rfl

end Sys2Proof.Machine
end

section
namespace Sys2Proof.Machine

/-! ### The access check by the answer listed for a page (20_memory.md R42) -/

/-- The access check faults with the fault listed for the linear page, taken at `la`, or, where the page is unlisted,
with a page fault at `la` (log 4). -/
theorem accessCheckRW_error_iff {s : State} {la : Addr} {f : Fault} :
    s.accessCheckRW la = .error f ↔
      (∃ af, assocFind s.access (pageNo la) = some (.fault af) ∧ f = accessFaultAt la af) ∨
        (assocFind s.access (pageNo la) = none ∧ f = .pf la (Config.accessErrorCode s.draws la)) := by
  unfold State.accessCheckRW
  split
  · next frame h => simp [h]
  · next af h => simp [h, eq_comm]
  · next h => simp [h, eq_comm]

/-- A listed page fault is taken at the address checked (20_memory.md R42 clause 4). -/
theorem eq_of_accessFaultAt_eq_pf {la la' : Addr} {ec : Nat} {af : AccessFault}
    (h : accessFaultAt la af = .pf la' ec) : la' = la := by
  cases af with
  | pageFault _ => exact (Fault.pf.inj h).1.symm
  | gp0 => cases h
  | other _ => cases h

/-- A page fault of the access check, listed or not, is at the address checked. -/
theorem eq_of_accessCheckRW_eq_pf {s : State} {la la' : Addr} {ec : Nat}
    (h : s.accessCheckRW la = .error (.pf la' ec)) : la' = la := by
  rcases accessCheckRW_error_iff.1 h with ⟨af, -, hf⟩ | ⟨-, hf⟩
  · exact eq_of_accessFaultAt_eq_pf hf.symm
  · exact (Fault.pf.inj hf).1

/-- A physical address of a frame is in the frame's page, whatever its offset. -/
theorem pageOf_physAddr_eq (frame : BitVec 52) {o o' : Nat} (h : o < 4096) (h' : o' < 4096) :
    pageOf (physAddr frame o) = pageOf (physAddr frame o') := by
  rw [pageOf_eq_iff, pageNo_physAddr h, pageNo_physAddr h']

/-- Settles O29, by the answer listed for the page that the two addresses share: no answer, a fault, or a frame. -/
theorem accessCheckIsPageGranular : Obligations.AccessCheckIsPageGranular := by
  refine ⟨fun s la la' hpage => ?_, fun _ _ _ _ => eq_of_accessCheckRW_eq_pf⟩
  have hno : pageNo la' = pageNo la := pageOf_eq_iff.1 hpage.symm
  cases hla : assocFind s.access (pageNo la) with
  | none =>
    have hla' := hno ▸ hla
    exact .inl ⟨_, _, accessCheckRW_error_iff.2 (.inr ⟨hla, rfl⟩), accessCheckRW_error_iff.2 (.inr ⟨hla', rfl⟩)⟩
  | some answer =>
    have hla' := hno ▸ hla
    cases answer with
    | fault af =>
      exact .inl ⟨_, _, accessCheckRW_error_iff.2 (.inl ⟨af, hla, rfl⟩),
        accessCheckRW_error_iff.2 (.inl ⟨af, hla', rfl⟩)⟩
    | ok frame =>
      exact .inr ⟨_, _, accessCheckRW_ok_iff.2 ⟨frame, hla, rfl⟩, accessCheckRW_ok_iff.2 ⟨frame, hla', rfl⟩,
        pageOf_physAddr_eq frame (offOf_lt la) (offOf_lt la'), offOf_physAddr (offOf_lt la),
        offOf_physAddr (offOf_lt la')⟩

/-! ### The concurrency tables (20_memory.md R52, R53) -/

theorem leafGroup_eq_accept_iff {l : OtherLeaf} : leafGroup l = .accept ↔
    l = .eaccept ∨ l = .eacceptcopy ∨ l = .emodpe ∨ l = .emodpr ∨ l = .emodt := by
  cases l <;> simp [leafGroup]

theorem leafGroup_eq_build_iff {l : OtherLeaf} :
    leafGroup l = .build ↔ l = .eadd ∨ l = .eextend ∨ l = .einit := by
  cases l <;> simp [leafGroup]

theorem leafGroup_eq_track_iff {l : OtherLeaf} : leafGroup l = .track ↔ l = .etrack ∨ l = .etrackc := by
  cases l <;> simp [leafGroup]

/-- The cell of the second table is the same for each of its three groups. -/
theorem additionalConcurrency_eq (g : LeafGroup) :
    additionalConcurrency g = { access := .concurrent, onConflict := none } := by
  cases g <;> rfl

/-- Settles O44: the cells as the tables hold them, and the members of each group. -/
theorem concurrencyTablesAsGiven : Obligations.ConcurrencyTablesAsGiven := by
  refine ⟨rfl, rfl, fun _ => leafGroup_eq_accept_iff, fun _ => leafGroup_eq_build_iff,
    fun _ => leafGroup_eq_track_iff, fun g => ?_⟩
  rw [additionalConcurrency_eq]
  exact ⟨rfl, rfl⟩

/-! ### Effective addresses and the DS segment (20_memory.md R41) -/

/-- Settles O45, by the two cases of `lin_toNat`. -/
theorem linearAddressOfEffective : Obligations.LinearAddressOfEffective := by
  intro s x hx
  rw [lin_toNat s hx]
  exact ⟨fun hmode => if_pos hmode, fun hmode => if_neg (by simp [hmode])⟩

theorem dsContains_of_expandUp {ds : DsSegment} (hup : ds.expandUp = true) (o : Nat) :
    dsContains ds o = decide (o ≤ ds.limit.toNat) :=
  if_pos hup

/-- Settles O46: of an expand-up segment the answer is the comparison with the limit. -/
theorem expandUpSegmentContains : Obligations.ExpandUpSegmentContains := by
  intro ds o hup
  rw [dsContains_of_expandUp hup, decide_eq_true_iff]

end Sys2Proof.Machine
end

section
namespace Sys2Proof

/-! ### The decoder, by the bytes it accepts and those it rejects (30_encoding.md R60 to R67) -/

theorem Instr.wellFormed (i : Instr) : i.WellFormed := by
  cases i
  rfl

theorem length_encode (i : Instr) : (encode i).length = encluLen := by
  cases i
  rfl

theorem decode_encode_append (i : Instr) (rest : List Byte) : decode (encode i ++ rest) = .ok (i, rest) := by
  cases i
  exact Laws.EncodingRoundTrip.edeccssa.2.2 rest

/-- Only the last branch of the decoder accepts, and the tests before it leave one value for each of the three bytes. -/
theorem eq_encode_append_of_decode_ok {bytes : List Byte} {i : Instr} {rest : List Byte}
    (h : decode bytes = .ok (i, rest)) : bytes = encode i ++ rest := by
  revert h
  fun_cases decode bytes with
  | case8 b0 _ h0 b1 h1 b2 tail h2 =>
    intro h
    cases h
    rw [not_not.1 h0, not_not.1 h1, not_not.1 h2]
    rfl
  | _ => exact nofun

theorem decode_of_isPrefixByte {b : Byte} (hb : isPrefixByte b = true) (rest : List Byte) :
    decode (b :: rest) = .error .prefixedForm :=
  if_pos hb

theorem tableBytes_edeccssa : tableBytes 24 0xD7010F = encode .edeccssa := by decide

/-- A word of the opcode table is the instruction whose encoding its bytes are (30_encoding.md R67). -/
theorem decodeTableWord_of_tableBytes {nbits w : Nat} {i : Instr} (h : tableBytes nbits w = encode i) :
    decodeTableWord nbits w = some i := by
  have hdec : decode (tableBytes nbits w) = .ok (i, []) := by
    rw [h, ← List.append_nil (encode i)]
    exact decode_encode_append i []
  rw [decodeTableWord, hdec]

/-- Settles O3, by the branches of the decoder in one direction and the round trip of the encoding in the other. -/
theorem decoderAcceptsExactlyTheEncodings : Obligations.DecoderAcceptsExactlyTheEncodings := by
  intro bytes i rest
  constructor
  · exact fun hdec => ⟨i.wellFormed, eq_encode_append_of_decode_ok hdec⟩
  · rintro ⟨_hwf, rfl⟩
    exact decode_encode_append i rest

/-- Settles O2: an encoding, the table's word for it, and bytes that two different tests of the decoder reject. -/
theorem decodesWrittenOutWords : Obligations.DecodesWrittenOutWords :=
  ⟨decode_encode_append .edeccssa [], decodeTableWord_of_tableBytes tableBytes_edeccssa,
    decode_of_isPrefixByte (by decide) _, by decide⟩

end Sys2Proof
end

section
namespace Sys2Proof.Machine

/-! ### Bytes placed at `RIP` are fetched (20_memory.md R57) -/

/-- A run of bytes written at distinct addresses reads back. -/
theorem readRun_writeRun (m : Memory) {addr : Nat → Addr} {i : Nat} {bytes : List Byte}
    (hne : ∀ j k, i ≤ j → j < k → k < i + bytes.length → addr j ≠ addr k) :
    readRun (writeRun m addr i bytes) addr i bytes.length = bytes := by
  induction bytes generalizing m i with
  | nil => rfl
  | cons b rest ih =>
    have hfirst : (writeRun m addr i (b :: rest)).read (addr i) = some b :=
      (Memory.read_writeRun_other _ _ _ _ _ fun k hk hk' =>
        hne i k le_rfl hk (by rw [List.length_cons]; omega)).trans (Memory.read_write_self _ _ _)
    have hrest : readRun (writeRun m addr i (b :: rest)) addr (i + 1) rest.length = rest :=
      ih _ fun j k hj hjk hk => hne j k (by omega) hjk (by rw [List.length_cons]; omega)
    rw [List.length_cons, readRun, hfirst]
    exact congrArg (b :: ·) hrest

theorem truncateEa_toNat (s : State) (a : Nat) : (s.truncateEa a).toNat = a % 2 ^ s.eaW := by
  have hlt : a % 2 ^ s.eaW < 2 ^ s.eaW := Nat.mod_lt _ (Nat.two_pow_pos _)
  have hpow : 2 ^ s.eaW ≤ 2 ^ 64 := Nat.pow_le_pow_right (by decide) (eaW_le s)
  rw [State.truncateEa, BitVec.toNat_ofNat, Nat.mod_eq_of_lt (by omega)]

/-- The bytes of an instruction stand at different addresses, also where the addresses wrap. -/
theorem fetchAddr_ne (s : State) {j k : Nat} (hjk : j < k) (hk : k < 2 ^ 32) : s.fetchAddr j ≠ s.fetchAddr k := by
  intro h
  have hmod : (s.rip.toNat + j) % 2 ^ s.eaW = (s.rip.toNat + k) % 2 ^ s.eaW := by
    rw [← truncateEa_toNat, ← truncateEa_toNat]
    exact congrArg BitVec.toNat h
  unfold State.eaW at hmod
  split at hmod <;> omega

theorem fetchBytes_placeBytes (s : State) {bytes : List Byte} (hlen : bytes.length = encluLen) :
    (s.placeBytes bytes).fetchBytes = bytes := by
  rw [State.fetchBytes, State.placeBytes_text, State.placeBytes_fetchAddr, ← hlen]
  refine readRun_writeRun s.text fun j k _ hjk hk => fetchAddr_ne s hjk ?_
  rw [hlen, encluLen] at hk
  omega

/-- Placing the word of an instruction writes its encoding at `RIP` and selects its leaf (log 2). -/
theorem withFetchWord_of_tableBytes (s : State) {nbits w : Nat} {i : Instr} (h : tableBytes nbits w = encode i) :
    s.withFetchWord nbits w = (s.placeBytes (encode i)).selectLeaf (some i) := by
  rw [State.withFetchWord, decodeTableWord_of_tableBytes h, h]

theorem eax_selectLeaf_edeccssa (s : State) : (s.selectLeaf (some .edeccssa)).eax = leafEdeccssa := by
  rw [State.eax, State.selectLeaf_some_rax, setWidth_withEax]

/-- Settles O4: the placed bytes are read back, selecting the leaf leaves them alone, and they decode. -/
theorem placedInstructionIsFetchedAndRun : Obligations.PlacedInstructionIsFetchedAndRun := by
  intro s
  rw [withFetchWord_of_tableBytes s tableBytes_edeccssa]
  have hfetch : ((s.placeBytes (encode .edeccssa)).selectLeaf (some .edeccssa)).fetchBytes = encode .edeccssa := by
    rw [State.selectLeaf_fetchBytes, fetchBytes_placeBytes s (length_encode .edeccssa)]
  refine ⟨hfetch, eax_selectLeaf_edeccssa _, step_of_decode_ok (rest := []) ?_⟩
  rw [hfetch]
  exact decode_encode_append .edeccssa []

/-! ### The premises of the leaf that come first (70_reset_and_hazards.md R121 L2 to L4) -/

section LeafPremises
variable {s : State}

theorem exec_of_leafPremises_error {r : Refusal} (h : s.leafPremises = .error r) :
    exec .edeccssa s = .refused r := by
  rw [exec, execEdeccssa, h]
  rfl

theorem leafPremises_of_eax_ne (heax : s.eax ≠ leafEdeccssa) : s.leafPremises = .error .otherLeaf :=
  if_pos heax

theorem leafPremises_of_not_supported (heax : s.eax = leafEdeccssa) (hsup : s.cfg.edeccssaSupported = false) :
    s.leafPremises = .error .notSupported := by
  rw [State.leafPremises, if_neg (not_not.2 heax), if_pos hsup]

/-- With the leaf selected and the feature flag set, the processor mode decides. -/
theorem leafPremises_of_supported (heax : s.eax = leafEdeccssa) (hsup : s.cfg.edeccssaSupported = true) :
    s.leafPremises =
      if s.procMode.invalidOpcode = true then .error .invalidOpcodeMode
      else if s.procMode.protection = true then .error .protectionMode
      else .ok () := by
  rw [State.leafPremises, if_neg (not_not.2 heax), if_neg (by simp [hsup])]

theorem invalidOpcode_iff {m : ProcMode} : m.invalidOpcode = true ↔
    m.pe = false ∨ m.v86 = true ∨ m.smm = true ∨ m.enclaveExt = false ∨ m.cpl ≠ 3 := by
  simp [ProcMode.invalidOpcode, or_assoc]

theorem protection_iff {m : ProcMode} : m.protection = true ↔ m.pg = false ∨ m.ne = false := by
  simp [ProcMode.protection]

end LeafPremises

/-- Settles O5: the test of the leaf number comes first, and bytes that the decoder accepts would be an encoding. -/
theorem otherLeavesAndBytesRefused : Obligations.OtherLeavesAndBytesRefused := by
  refine ⟨fun s heax => exec_of_leafPremises_error (leafPremises_of_eax_ne heax), fun s hbytes => ?_⟩
  cases hdec : decode s.fetchBytes with
  | error e => exact ⟨decodeRefusal e, step_of_decode_error hdec⟩
  | ok d =>
    obtain ⟨⟨⟩, rest⟩ := d
    exact absurd (eq_encode_append_of_decode_ok hdec) (hbytes rest)

/-- Settles O6, by the decoder's first test. -/
theorem prefixedFormsRefused : Obligations.PrefixedFormsRefused := by
  intro s b rest hb hbytes
  have hdec : decode s.fetchBytes = .error .prefixedForm := by
    rw [hbytes]
    exact decode_of_isPrefixByte hb rest
  exact step_of_decode_error hdec

/-- Settles O7: the feature flag, the invalid-opcode modes and the protection modes are asked in this order. -/
theorem unsupportedOrWrongModeRefused : Obligations.UnsupportedOrWrongModeRefused := by
  refine ⟨fun s heax hsup => ?_, fun s heax hsup hmode => ?_, fun s heax hsup hvalid hmode => ?_⟩
  all_goals apply exec_of_leafPremises_error
  · exact leafPremises_of_not_supported heax hsup
  · rw [leafPremises_of_supported heax hsup, if_pos (invalidOpcode_iff.2 hmode)]
  · rw [leafPremises_of_supported heax hsup, if_neg (by simp [hvalid]), if_pos (protection_iff.2 hmode)]

end Sys2Proof.Machine
end

section
namespace Sys2Proof.Machine

/-! ### The addresses of the target frame (40_edeccssa.md R73, R75, R78, R81, R82) -/

theorem cetOn_iff {cfg : Params} {secs : Secs} :
    cetOn cfg secs = true ↔ cfg.cpuid12_1Eax6 = true ∧ (secs.shStkEn = true ∨ secs.endbrEn = true) := by
  simp [cetOn]

section FramePlan
variable {cfg : Params} {v : EnclaveView}

theorem framePlan_cet_of_cetOn (h : cetOn cfg v.secs = true) :
    (framePlan cfg v).cet = some (cetEntry v.tcs v.secs (v.tcs.cssa.toNat - 1)) :=
  if_pos h

theorem framePlan_cet_of_cetOff (h : cetOn cfg v.secs = false) : (framePlan cfg v).cet = none :=
  if_neg (by simp [h])

/-- With `CETON` false no address of the target frame is made from `OCETSSA` (40_edeccssa.md R81). -/
theorem framePlan_setOcetssa (h : cetOn cfg v.secs = false) (x : BitVec 64) :
    framePlan cfg { v with tcs := { v.tcs with ocetssa := x } } = framePlan cfg v := by
  simp only [framePlan, h]
  rfl

end FramePlan

/-- A page begins before the end of an area of `xsize` bytes exactly when its number is below `NPAGES`. -/
theorem lt_pageCount_iff {n xsize : Nat} : n < pageCount xsize ↔ pageSize * n < xsize := by
  simp only [pageCount, pageSize]
  omega

/-- `NPAGES` as a division rounded up. -/
theorem pageCount_eq (xsize : Nat) : pageCount xsize = xsize / 4096 + if xsize % 4096 = 0 then 0 else 1 := by
  simp only [pageCount, pageSize]
  split <;> omega

/-- Settles O19: the plan is written from these formulas, and `CETON` decides the last one. -/
theorem targetFrameAddresses : Obligations.TargetFrameAddresses := by
  intro cfg v
  refine ⟨rfl, rfl, ?_⟩
  cases hcet : cetOn cfg v.secs with
  | true => exact (framePlan_cet_of_cetOn hcet).trans (if_pos (cetOn_iff.1 hcet)).symm
  | false =>
    have hoff : ¬ (cfg.cpuid12_1Eax6 = true ∧ (v.secs.shStkEn = true ∨ v.secs.endbrEn = true)) :=
      fun h => by simp [cetOn_iff.2 h] at hcet
    exact (framePlan_cet_of_cetOff hcet).trans (if_neg hoff).symm

/-- Settles O20, by the two readings of `NPAGES`: a rounded quotient, and the bound of the pages that overlap. -/
theorem xsavePagesAreThoseThatOverlap : Obligations.XsavePagesAreThoseThatOverlap := by
  refine ⟨fun _ _ => rfl, fun s v => pageCount_eq _, fun s v n => ?_⟩
  rw [xsavePage, Nat.add_lt_add_iff_left]
  exact lt_pageCount_iff

/-- A GPR area that fits below the end of its frame ends there. -/
theorem gprArea_add_size {cfg : Params} {secs : Secs} {ssa : Nat} (h : cfg.gprsgxSize ≤ frameEnd secs ssa) :
    gprArea cfg secs ssa + cfg.gprsgxSize = frameEnd secs ssa :=
  Nat.sub_add_cancel h

/-- A frame that begins at a page boundary ends at one. -/
theorem frameEnd_aligned {secs : Secs} {ssa : Nat} (h : ssa % 4096 = 0) : frameEnd secs ssa % 4096 = 0 := by
  rw [frameEnd, pageSize, Nat.add_mul_mod_self_left, h]

/-- Bytes that end at a page boundary, at most a page of them, lie in one page. -/
theorem eaPage_eq_of_end_aligned {start size : Nat} (hlow : 1 ≤ size) (hhigh : size ≤ 4096)
    (hend : (start + size) % 4096 = 0) : eaPage start = eaPage (start + size - 1) := by
  simp only [eaPage, pageSize]
  omega

/-- Settles O21: the frame begins and ends at a page boundary, and the GPR area is at most a page at its end. -/
theorem gprAreaInOnePage : Obligations.GprAreaInOnePage := by
  intro s v hlaunch hframe
  have hend : (framePlan s.cfg v).gpr + s.cfg.gprsgxSize = frameEnd v.secs (framePlan s.cfg v).ssa :=
    gprArea_add_size hframe.gprNotNegative
  have haligned : (framePlan s.cfg v).ssa % 4096 = 0 :=
    ssaFrame_aligned _ hlaunch.baseAligned hlaunch.ossaAligned
  refine ⟨eaPage_eq_of_end_aligned hlaunch.gprsgxSizeLow hlaunch.gprsgxSizeHigh ?_, hend⟩
  rw [hend]
  exact frameEnd_aligned haligned

end Sys2Proof.Machine
end

section
namespace Sys2Proof.Machine

/-! ### The outcome of the leaf by the first test that does not pass (40_edeccssa.md R70)

The test of the premises L2 to L4 is `exec_of_leafPremises_error`; completion is `exec_eq_next_iff`. -/

section FirstFailure
variable {s : State} {v : EnclaveView} {r : Refusal} {f : Fault}

theorem exec_of_outside (hleaf : LeafReady s) (hout : s.inEnclave = false) : exec .edeccssa s = .fault .gp0 := by
  simp [exec, execEdeccssa, leafPremises_ok_iff (u := ()) |>.2 hleaf, hout, raise]

theorem exec_of_launchPremises_error (hleaf : LeafReady s) (hin : s.inEnclave = true) (henc : EnclaveReady s v)
    (h : s.launchPremises v = .error r) : exec .edeccssa s = .refused r := by
  simp [exec, execEdeccssa, leafPremises_ok_iff (u := ()) |>.2 hleaf, hin, enclaveView_ok_iff.2 henc, h, refuse]

theorem exec_of_cssa_zero (hleaf : LeafReady s) (hin : s.inEnclave = true) (henc : EnclaveReady s v)
    (hlaunch : LaunchReady s v) (hzero : v.tcs.cssa = 0#32) : exec .edeccssa s = .fault .gp0 := by
  simp [exec, execEdeccssa, leafPremises_ok_iff (u := ()) |>.2 hleaf, hin, enclaveView_ok_iff.2 henc,
    launchPremises_ok_iff (u := ()) |>.2 hlaunch, hzero, raise]

theorem exec_of_framePremises_error (hleaf : LeafReady s) (hin : s.inEnclave = true) (henc : EnclaveReady s v)
    (hlaunch : LaunchReady s v) (hcssa : v.tcs.cssa ≠ 0#32) (h : s.framePremises v = .error r) :
    exec .edeccssa s = .refused r := by
  simp [exec, execEdeccssa, leafPremises_ok_iff (u := ()) |>.2 hleaf, hin, enclaveView_ok_iff.2 henc,
    launchPremises_ok_iff (u := ()) |>.2 hlaunch, hcssa, h, refuse]

theorem exec_of_frameChecks_error (hadm : Admitted s v) (h : s.frameChecks v.owner (framePlan s.cfg v) = .error f) :
    exec .edeccssa s = .fault f := by
  simp [exec, execEdeccssa, leafPremises_ok_iff (u := ()) |>.2 hadm.leaf, hadm.inEnclave,
    enclaveView_ok_iff.2 hadm.enclave, launchPremises_ok_iff (u := ()) |>.2 hadm.launch, hadm.cssa,
    framePremises_ok_iff (u := ()) |>.2 hadm.frame, h, raise]

theorem exec_of_frameUsable {x : Targets} (hadm : Admitted s v) (hx : FrameUsable s v x) :
    exec .edeccssa s = .next (s.complete v.tcs x) :=
  exec_eq_next_iff.2 ⟨v, x, hadm, hx, rfl⟩

end FirstFailure

/-- Settles O8: once L2 to L4 hold, the enclave check is the next test. -/
theorem outsideEnclaveFaults : Obligations.OutsideEnclaveFaults :=
  fun _ => exec_of_outside

/-- Settles O9: the test of `CSSA` follows those of L5 to L8 and L10, and precedes that of the target frame. -/
theorem zeroCssaFaults : Obligations.ZeroCssaFaults :=
  fun _ _ => exec_of_cssa_zero

/-! ### The refusals of L8 to L10 (70_reset_and_hazards.md R121) -/

section Premises
variable {s : State} {v : EnclaveView}

/-- With the alignments and `GPRSGX_SIZE` in order, the XSAVE size and L10 decide. -/
theorem launchPremises_of_aligned (hbase : v.secs.baseAddr.toNat % 4096 = 0) (hossa : v.tcs.ossa.toNat % 4096 = 0)
    (hlow : 1 ≤ s.cfg.gprsgxSize) (hhigh : s.cfg.gprsgxSize ≤ 4096) :
    s.launchPremises v =
      if xsaveFrameSize s.cfg v.secs.xfrm % 4096 = 0 then .error .xsizePageMultiple
      else if s.mode64 = false ∧ v.below4G = false then .error .addressOutOfRange
      else .ok () := by
  rw [State.launchPremises, if_neg (by simp [pageSize, hbase, hossa]), if_neg (by simp only [pageSize]; omega)]
  rfl

/-- A target frame that is not in use can only be refused for an address out of range. -/
theorem framePremises_of_not_ready (huse : targetFrame v.tcs ∉ v.tcs.framesInUse) (h : ¬ FrameReady s v) :
    s.framePremises v = .error .addressOutOfRange := by
  cases hrange : framePlanInRange s.cfg v (framePlan s.cfg v) (2 ^ s.eaW) with
  | false => rw [State.framePremises, if_neg (by simpa using huse), if_pos hrange]
  | true =>
    have hok : s.framePremises v = .ok () := by
      rw [State.framePremises, if_neg (by simpa using huse), if_neg (by simp [hrange])]
    exact absurd (framePremises_ok_iff.1 hok) h

end Premises

/-- Settles O30: once the premises before it hold, the XSAVE size is tested next, before `CSSA` is. -/
theorem xsizePageMultipleRefused : Obligations.XsizePageMultipleRefused := by
  intro s v hleaf hin henc hbase hossa hlow hhigh hxsize
  refine exec_of_launchPremises_error hleaf hin henc ?_
  rw [launchPremises_of_aligned hbase hossa hlow hhigh, if_pos hxsize]

/-- Settles O31: either L10 already fails, with the same refusal, or each listed address contradicts one premise on the
target frame. -/
theorem addressOutOfRangeRefused : Obligations.AddressOutOfRangeRefused := by
  intro s v hleaf hin henc hcssa huse hbase hossa hlow hhigh hxsize hout
  have hlaunch := launchPremises_of_aligned (s := s) hbase hossa hlow hhigh
  rw [if_neg hxsize] at hlaunch
  by_cases hbelow : s.mode64 = false ∧ v.below4G = false
  · rw [if_pos hbelow] at hlaunch
    exact exec_of_launchPremises_error hleaf hin henc hlaunch
  · rw [if_neg hbelow] at hlaunch
    have hnot : ¬ FrameReady s v := by
      intro hframe
      rcases hout with h | ⟨n, hn, h⟩ | h | h | h | ⟨hcet, h⟩
      · exact absurd hframe.ssaInRange (Nat.not_lt.2 h)
      · exact absurd (hframe.pagesInRange n hn) (Nat.not_lt.2 h)
      · exact absurd hframe.gprNotNegative (Nat.not_le.2 h)
      · exact absurd hframe.gprInRange (Nat.not_lt.2 h)
      · exact absurd hframe.gprLastInRange (Nat.not_lt.2 h)
      · exact absurd (hframe.cetInRange _ (framePlan_cet_of_cetOn hcet)) (Nat.not_lt.2 h)
    exact exec_of_framePremises_error hleaf hin henc (launchPremises_ok_iff.1 hlaunch) hcssa
      (framePremises_of_not_ready huse hnot)

end Sys2Proof.Machine
end

section
namespace Sys2Proof.Machine

/-! ### A completed leaf and its writes (40_edeccssa.md R84 to R89) -/

section Writes
variable {s : State} {v : EnclaveView} {x : Targets}

theorem cetPartOk_of_cetOff {cetPa : Option Addr} (h : cetOn s.cfg v.secs = false) :
    CetPartOk s v cetPa ↔ cetPa = none := by
  rw [CetPartOk, framePlan_cet_of_cetOff h]

theorem cetPartOk_of_cetOn {cetPa : Option Addr} (h : cetOn s.cfg v.secs = true) :
    CetPartOk s v cetPa ↔
      ∃ pa, CetPageUsable s v.owner (s.lin (eaPage (cetEntry v.tcs v.secs (v.tcs.cssa.toNat - 1)))) pa ∧
        cetPa = some (pa + BitVec.ofNat 64 (cetEntry v.tcs v.secs (v.tcs.cssa.toNat - 1) % 4096)) := by
  rw [CetPartOk, framePlan_cet_of_cetOn h]

/-- The DS limit check passes exactly when outside 64-bit mode the last byte of the GPR area is in DS. -/
theorem dsLimitOk_iff : DsLimitOk s v ↔
    (s.mode64 = false → dsContains s.ds ((framePlan s.cfg v).gpr + s.cfg.gprsgxSize - 1) = true) := by
  rw [DsLimitOk, ← Bool.not_eq_false, or_iff_not_imp_left, not_not]

/-- Settles O11, by the form of every completed outcome. -/
theorem completesExactlyWhenChecksPass : Obligations.CompletesExactlyWhenChecksPass := by
  intro s
  constructor
  · rintro ⟨t, ht⟩
    obtain ⟨v, x, hadm, hx, -⟩ := exec_eq_next_iff.1 ht
    exact ⟨v, x, hadm, hx⟩
  · rintro ⟨v, x, hadm, hx⟩
    exact ⟨_, exec_of_frameUsable hadm hx⟩

/-- Settles O10: the addresses given make the frame usable, with and without `CETON`, and the next state is the
commit. -/
theorem completesWithEveryWrite : Obligations.CompletesWithEveryWrite := by
  intro s v pas gprPa cetPa hadm hlen hpas hgpr hds hcet
  cases hon : cetOn s.cfg v.secs with
  | false =>
    have hx : FrameUsable s v { xsave := pas, gpr := gprPa, cet := none } :=
      ⟨⟨hlen, hpas⟩, hgpr, dsLimitOk_iff.2 hds, (cetPartOk_of_cetOff hon).2 rfl⟩
    exact exec_of_frameUsable hadm hx
  | true =>
    have hx : FrameUsable s v { xsave := pas, gpr := gprPa, cet := _ } :=
      ⟨⟨hlen, hpas⟩, hgpr, dsLimitOk_iff.2 hds, (cetPartOk_of_cetOn hon).2 ⟨cetPa, hcet hon, rfl⟩⟩
    exact exec_of_frameUsable hadm hx

theorem EnclaveReady.cssa? (h : EnclaveReady s v) : s.cssa? = some v.tcs.cssa := by
  rw [State.cssa?, h.tcs]
  rfl

theorem cssa?_complete (s : State) (tcs : Tcs) (x : Targets) : (s.complete tcs x).cssa? = some (tcs.cssa - 1) := by
  rw [State.cssa?, State.complete_tcss, State.complete_crTcsPa, assocFind_put_self]
  rfl

theorem toNat_sub_one_add_one {c : BitVec 32} (h : c ≠ 0#32) : (c - 1).toNat + 1 = c.toNat := by
  bv_omega

/-- Settles O13: the commit writes the decremented TCS back, and an admitted state has `CSSA` not 0. -/
theorem decrementsCssa : Obligations.DecrementsCssa := by
  intro s v x hadm hx
  exact ⟨_, exec_of_frameUsable hadm hx, hadm.enclave.cssa?, cssa?_complete s v.tcs x,
    toNat_sub_one_add_one hadm.cssa⟩

/-- Settles O14: the commit writes the address that the access check of a usable GPR area answers. -/
theorem gprPointerWritten : Obligations.GprPointerWritten := by
  intro s v x hadm hx
  exact ⟨_, exec_of_frameUsable hadm hx, hx.gpr.1⟩

/-- `CR_XSAVE_PAGE_n` after the commit: the address recorded for page `n`, or the old value. -/
theorem xsavePageReg_complete (s : State) (tcs : Tcs) (x : Targets) (n : Nat) :
    xsavePageReg (s.complete tcs x).crXsavePages n = (x.xsave[n]?).getD (xsavePageReg s.crXsavePages n) :=
  xsavePageReg_writeRegs _ _ (Nat.zero_le n)

/-- Settles O15: one address is recorded for each page below `NPAGES`, and none for the others. -/
theorem xsavePointersWritten : Obligations.XsavePointersWritten := by
  intro s v x hadm hx
  obtain ⟨hlen, husable⟩ := hx.xsave
  refine ⟨_, exec_of_frameUsable hadm hx, fun n hn => ?_, fun n hn => ?_⟩
  · have hpa : x.xsave[n]? = some x.xsave[n] := List.getElem?_eq_getElem (hlen ▸ hn)
    rw [xsavePageReg_complete, hpa]
    exact (husable n _ hpa).1
  · rw [xsavePageReg_complete, List.getElem?_eq_none (hlen ▸ hn)]
    rfl

/-! ### The address of the CET save area (40_edeccssa.md R88) -/

/-- Where the page of an effective address has a page-aligned linear address, the address is in that linear page, at
its own offset. -/
theorem lin_in_eaPage {a : Nat} (ha : a < 2 ^ s.eaW) (haligned : offOf (s.lin (eaPage a)) = 0) :
    pageNo (s.lin a) = pageNo (s.lin (eaPage a)) ∧ offOf (s.lin a) = eaOff a := by
  have hpage : eaPage a < 2 ^ s.eaW := Nat.lt_of_le_of_lt (Nat.div_mul_le_self a pageSize) ha
  simp only [pageNo, offOf, lin_toNat s ha, lin_toNat s hpage] at haligned ⊢
  simp only [eaPage, eaOff, pageSize] at haligned ⊢
  cases hmode : s.mode64 with
  | true => simp
  | false =>
    simp only [hmode, Bool.false_eq_true, reduceIte] at haligned ⊢
    omega

/-- The access check of an address answers the address of its page plus its offset there. -/
theorem accessCheckRW_of_page {la la' pa : Addr} (hpage : pageNo la' = pageNo la) (haligned : offOf la = 0)
    (h : s.accessCheckRW la = .ok pa) : s.accessCheckRW la' = .ok (pa + BitVec.ofNat 64 (offOf la')) := by
  obtain ⟨frame, hframe, rfl⟩ := accessCheckRW_ok_iff.1 h
  rw [haligned, physAddr_zero_add]
  exact accessCheckRW_ok_iff.2 ⟨frame, hpage ▸ hframe, rfl⟩

/-- Settles O16: a usable CET save page begins at a linear page, so the save area has the page's frame and its own
offset. -/
theorem cetPointerWritten : Obligations.CetPointerWritten := by
  intro s v x hadm hx
  refine ⟨_, exec_of_frameUsable hadm hx, fun hon => ?_, fun hoff => ?_⟩
  · obtain ⟨pa, husable, hkept⟩ := (cetPartOk_of_cetOn hon).1 hx.cet
    have hrange := hadm.frame.cetInRange _ (framePlan_cet_of_cetOn hon)
    obtain ⟨hpage, hoffset⟩ := lin_in_eaPage (s := s) (by omega) husable.offOf_eq_zero
    rw [State.complete_crCetSaveAreaPa, hkept]
    refine ⟨?_, pa, husable.1, rfl⟩
    rw [accessCheckRW_of_page hpage husable.offOf_eq_zero husable.1, hoffset]
    rfl
  · rw [State.complete_crCetSaveAreaPa, (cetPartOk_of_cetOff hoff).1 hx.cet]
    rfl

end Writes

/-! ### `CSSA` along a run (60_exceptions.md R115) -/

/-- A step that answers a next state lowers `CSSA` by one, from a value that is not 0. -/
theorem step_next_cssa {s u : State} (h : step s = .next u) :
    ∃ c : BitVec 32, s.cssa? = some c ∧ u.cssa? = some (c - 1) ∧ (c - 1).toNat + 1 = c.toNat := by
  obtain ⟨v, x, hadm, -, rfl⟩ := step_next h
  exact ⟨v.tcs.cssa, hadm.enclave.cssa?, cssa?_complete s v.tcs x, toNat_sub_one_add_one hadm.cssa⟩

/-- A run of `k` executions that ends in a state lowers `CSSA` by `k`. -/
theorem runOf_next_cssa {k : Nat} {s t : State} {c : BitVec 32} (hc : s.cssa? = some c) (h : runOf k s = .next t) :
    ∃ c', t.cssa? = some c' ∧ c'.toNat + k = c.toNat := by
  induction k generalizing s c with
  | zero =>
    cases h
    exact ⟨c, hc, rfl⟩
  | succ k ih =>
    obtain ⟨u, hstep, hrun⟩ := runOf_succ_eq_next_iff.1 h
    obtain ⟨c₀, hc₀, hu, hone⟩ := step_next_cssa hstep
    obtain rfl : c₀ = c := Option.some.inj (hc₀.symm.trans hc)
    obtain ⟨c', ht, hk⟩ := ih hu hrun
    exact ⟨c', ht, by omega⟩

/-- Settles O38: the first execution shows that there is a TCS, and `runOf_next_cssa` counts. -/
theorem runCountsCssaDown : Obligations.RunCountsCssaDown := by
  intro k s t hrun
  obtain ⟨u, hstep, -⟩ := runOf_succ_eq_next_iff.1 hrun
  obtain ⟨c, hc, -, -⟩ := step_next_cssa hstep
  obtain ⟨c', ht, hk⟩ := runOf_next_cssa hc hrun
  exact ⟨c, c', hc, ht, hk⟩

/-- Settles O39: a safe run of `k` executions would take `k` from `CSSA`. -/
theorem noSafeRunLongerThanCssa : Obligations.NoSafeRunLongerThanCssa := by
  rintro k s c hc hlt ⟨t, hrun⟩
  obtain ⟨c', -, hk⟩ := runOf_next_cssa hc hrun
  omega

end Sys2Proof.Machine
end

section
namespace Sys2Proof.Machine

/-! ### The fault of the first check that fails (40_edeccssa.md R76 to R83, 60_exceptions.md R104) -/

section PageChecks
variable {s : State} {owner : Nat} {la pa : Addr} {f : Fault}

/-- Where the access check of a page passes, the rest of a page check passes with its address or raises `#PF`. -/
theorem eq_epcmFault_of_not_ok {check : Except Fault Addr} (hpa : s.accessCheckRW la = .ok pa)
    (hok : ∀ pa', check = .ok pa' → s.accessCheckRW la = .ok pa')
    (herror : ∀ f, check = .error f →
      s.accessCheckRW la = .error f ∨ (∃ pa, s.accessCheckRW la = .ok pa) ∧ f = s.epcmFault la)
    (hnot : check ≠ .ok pa) : check = .error (s.epcmFault la) := by
  cases hcheck : check with
  | ok pa' =>
    obtain rfl : pa' = pa := Except.ok.inj ((hok pa' hcheck).symm.trans hpa)
    exact absurd hcheck hnot
  | error f =>
    rcases herror f hcheck with hf | ⟨-, rfl⟩
    · cases hpa.symm.trans hf
    · rfl

theorem regPageCheck_of_access_error (h : s.accessCheckRW la = .error f) : s.regPageCheck owner la = .error f := by
  rw [State.regPageCheck, h]

/-- An SSA page that is accessible but not usable fails one of its EPCM checks. -/
theorem regPageCheck_of_not_usable (hpa : s.accessCheckRW la = .ok pa) (h : ¬ RegPageUsable s owner la pa) :
    s.regPageCheck owner la = .error (s.epcmFault la) :=
  eq_epcmFault_of_not_ok hpa (fun _ hok => (regPageCheck_ok_iff.1 hok).1) (fun _ => regPageCheck_error)
    (mt regPageCheck_ok_iff.1 h)

theorem cetPageCheck_of_access_error (h : s.accessCheckRW la = .error f) : s.cetPageCheck owner la = .error f := by
  rw [State.cetPageCheck, h]

/-- A CET save page that is accessible but not usable fails one of its EPCM checks. -/
theorem cetPageCheck_of_not_usable (hpa : s.accessCheckRW la = .ok pa) (h : ¬ CetPageUsable s owner la pa) :
    s.cetPageCheck owner la = .error (s.epcmFault la) :=
  eq_epcmFault_of_not_ok hpa (fun _ hok => (cetPageCheck_ok_iff.1 hok).1) (fun _ => cetPageCheck_error)
    (mt cetPageCheck_ok_iff.1 h)

end PageChecks

section FrameChecks
variable {s : State} {v : EnclaveView} {f : Fault} {pas : List Addr} {gprPa : Addr}

theorem xsavePageChecks_of_usable (h : XsavePagesUsable s v pas) :
    s.xsavePageChecks v.owner (framePlan s.cfg v).ssa 0 (framePlan s.cfg v).pages = .ok pas :=
  xsavePageChecks_ok_iff.2 ⟨h.1, fun n pa hn => by simpa [xsavePageLa] using h.2 n pa hn⟩

/-- The first XSAVE page that fails decides the outcome. -/
theorem exec_of_xsavePage_error {n : Nat} (hadm : Admitted s v) (hn : n < npages s v)
    (hbefore : ∀ m < n, ∃ pa, RegPageUsable s v.owner (xsavePageLa s v m) pa)
    (h : s.regPageCheck v.owner (xsavePageLa s v n) = .error f) : exec .edeccssa s = .fault f := by
  have hpages : s.xsavePageChecks v.owner (framePlan s.cfg v).ssa 0 (framePlan s.cfg v).pages = .error f := by
    refine xsavePageChecks_error_iff.2 ⟨n, hn, by simpa [xsavePageLa] using h, fun m hm => ?_⟩
    obtain ⟨pa, hpa⟩ := hbefore m hm
    exact ⟨pa, regPageCheck_ok_iff.2 (by simpa [xsavePageLa] using hpa)⟩
  exact exec_of_frameChecks_error hadm (by rw [State.frameChecks, hpages])

/-- After usable XSAVE pages a GPR area that fails decides the outcome. -/
theorem exec_of_gpr_error (hadm : Admitted s v) (hpas : XsavePagesUsable s v pas)
    (h : s.regPageCheck v.owner (gprLa s v) = .error f) : exec .edeccssa s = .fault f := by
  rw [gprLa] at h
  exact exec_of_frameChecks_error hadm (by simp only [State.frameChecks, xsavePageChecks_of_usable hpas, h])

/-- After usable XSAVE pages and a usable GPR area the DS limit decides next. -/
theorem exec_of_dsLimit_fails (hadm : Admitted s v) (hpas : XsavePagesUsable s v pas)
    (hgpr : RegPageUsable s v.owner (gprLa s v) gprPa) (h : ¬ DsLimitOk s v) : exec .edeccssa s = .fault .gp0 := by
  have hcheck : s.regPageCheck v.owner (s.lin (framePlan s.cfg v).gpr) = .ok gprPa := regPageCheck_ok_iff.2 hgpr
  have hfails : s.dsLimitFails (framePlan s.cfg v).gpr = true := by
    rw [← Bool.not_eq_false, dsLimitFails_eq_false_iff]
    exact h
  exact exec_of_frameChecks_error hadm
    (by simp only [State.frameChecks, xsavePageChecks_of_usable hpas, hcheck, hfails, if_true])

/-- After all other checks have passed a CET save page that fails decides the outcome. -/
theorem exec_of_cetPage_error {area : Nat} (hadm : Admitted s v) (hpas : XsavePagesUsable s v pas)
    (hgpr : RegPageUsable s v.owner (gprLa s v) gprPa) (hds : DsLimitOk s v)
    (harea : (framePlan s.cfg v).cet = some area)
    (h : s.cetPageCheck v.owner (s.lin (eaPage area)) = .error f) : exec .edeccssa s = .fault f := by
  have hcheck : s.regPageCheck v.owner (s.lin (framePlan s.cfg v).gpr) = .ok gprPa := regPageCheck_ok_iff.2 hgpr
  have hcet : s.cetCheck v.owner (framePlan s.cfg v).cet = .error f := by
    rw [harea, State.cetCheck, h]
  exact exec_of_frameChecks_error hadm
    (by simp [State.frameChecks, xsavePageChecks_of_usable hpas, hcheck, dsLimitFails_eq_false_iff.2 hds, hcet])

end FrameChecks

/-- Settles O22: the pages before `P_n` pass, and `P_n` fails an EPCM check. -/
theorem firstBadXsavePageFaults : Obligations.FirstBadXsavePageFaults :=
  fun _ _ _ _ hadm hn hbefore hpa hbad =>
    ⟨_, exec_of_xsavePage_error hadm hn hbefore (regPageCheck_of_not_usable hpa hbad)⟩

/-- Settles O23: the pages before `P_n` pass, and the access check of `P_n` faults. -/
theorem xsaveAccessFaultDelivered : Obligations.XsaveAccessFaultDelivered :=
  fun _ _ _ _ hadm hn hbefore hf => exec_of_xsavePage_error hadm hn hbefore (regPageCheck_of_access_error hf)

/-- Settles O24, by the two ways in which the check of the GPR area fails. -/
theorem badGprPageFaults : Obligations.BadGprPageFaults := by
  rintro s v hadm ⟨pas, hpas⟩
  exact ⟨fun f hf => exec_of_gpr_error hadm hpas (regPageCheck_of_access_error hf),
    fun pa hpa hbad => ⟨_, exec_of_gpr_error hadm hpas (regPageCheck_of_not_usable hpa hbad)⟩⟩

/-- Settles O26, by the two ways in which the check of the CET save page fails. -/
theorem badCetPageFaults : Obligations.BadCetPageFaults := by
  rintro s v gprPa area hadm ⟨pas, hpas⟩ hgpr hds harea
  exact ⟨fun f hf => exec_of_cetPage_error hadm hpas hgpr hds harea (cetPageCheck_of_access_error hf),
    fun pa hpa hbad => ⟨_, exec_of_cetPage_error hadm hpas hgpr hds harea (cetPageCheck_of_not_usable hpa hbad)⟩⟩

/-! ### States that the checks of the target frame do not tell apart (40_edeccssa.md R91) -/

section Congr
variable {s s' : State}

theorem xsavePageChecks_congr {owner ssa n k : Nat}
    (h : ∀ m < k, s'.regPageCheck owner (s'.lin (xsavePage ssa (n + m))) =
      s.regPageCheck owner (s.lin (xsavePage ssa (n + m)))) :
    s'.xsavePageChecks owner ssa n k = s.xsavePageChecks owner ssa n k := by
  induction k generalizing n with
  | zero => rfl
  | succ k ih =>
    have hfirst := h 0 (Nat.succ_pos k)
    have hrest : s'.xsavePageChecks owner ssa (n + 1) k = s.xsavePageChecks owner ssa (n + 1) k :=
      ih fun m hm => by simpa only [Nat.add_assoc, Nat.add_comm 1 m] using h (m + 1) (Nat.succ_lt_succ hm)
    rw [Nat.add_zero] at hfirst
    simp only [State.xsavePageChecks, hfirst, hrest]

/-- The checks of the target frame answer alike where linear addresses and the DS limit are the same, and the checks of
each examined page. -/
theorem frameChecks_congr {v : EnclaveView} (hlin : ∀ x, s'.lin x = s.lin x)
    (hds : ∀ gpr, s'.dsLimitFails gpr = s.dsLimitFails gpr)
    (hreg : ∀ la, Examined s v la → s'.regPageCheck v.owner la = s.regPageCheck v.owner la)
    (hcet : ∀ la, Examined s v la → s'.cetPageCheck v.owner la = s.cetPageCheck v.owner la) :
    s'.frameChecks v.owner (framePlan s.cfg v) = s.frameChecks v.owner (framePlan s.cfg v) := by
  have hpages : s'.xsavePageChecks v.owner (framePlan s.cfg v).ssa 0 (framePlan s.cfg v).pages =
      s.xsavePageChecks v.owner (framePlan s.cfg v).ssa 0 (framePlan s.cfg v).pages := by
    refine xsavePageChecks_congr fun m hm => ?_
    rw [hlin, Nat.zero_add]
    exact hreg _ (.inl ⟨m, hm, rfl⟩)
  have hgpr := hreg _ (.inr (.inl rfl))
  have hcetPart : s'.cetCheck v.owner (framePlan s.cfg v).cet = s.cetCheck v.owner (framePlan s.cfg v).cet := by
    cases harea : (framePlan s.cfg v).cet with
    | none => rfl
    | some area => simp only [State.cetCheck, hlin, hcet _ (.inr (.inr ⟨area, harea, rfl⟩))]
  rw [gprLa] at hgpr
  simp only [State.frameChecks, hpages, hlin, hgpr, hds, hcetPart]

/-- The checks of an SSA page read one answer of the access check, and one EPCM entry where it is an address. -/
theorem regPageCheck_congr {owner : Nat} {la : Addr} (haccess : s'.accessCheckRW la = s.accessCheckRW la)
    (hepcm : ∀ pa, s.accessCheckRW la = .ok pa → s'.epcmEntry pa = s.epcmEntry pa) (hdraws : s'.draws = s.draws) :
    s'.regPageCheck owner la = s.regPageCheck owner la := by
  rw [State.regPageCheck, State.regPageCheck, haccess]
  cases h : s.accessCheckRW la with
  | error f => rfl
  | ok pa => simp only [hepcm pa h, State.epcmFault, hdraws]

/-- The checks of the CET save page read one answer of the access check, and one EPCM entry where it is an address. -/
theorem cetPageCheck_congr {owner : Nat} {la : Addr} (haccess : s'.accessCheckRW la = s.accessCheckRW la)
    (hepcm : ∀ pa, s.accessCheckRW la = .ok pa → s'.epcmEntry pa = s.epcmEntry pa) (hdraws : s'.draws = s.draws) :
    s'.cetPageCheck owner la = s.cetPageCheck owner la := by
  rw [State.cetPageCheck, State.cetPageCheck, haccess]
  cases h : s.accessCheckRW la with
  | error f => rfl
  | ok pa => simp only [hepcm pa h, State.epcmFault, hdraws]

end Congr

/-- In 64-bit mode neither the linear addresses nor the DS limit check read DS, so the leaf ends alike with any other
DS. -/
theorem exec_endAlike_setDs {s : State} (d : DsSegment) (hmode : s.mode64 = true) :
    EndAlike s { s with ds := d } (exec .edeccssa s) (exec .edeccssa { s with ds := d }) :=
  exec_endAlike_of_tests rfl rfl rfl (fun _ _ => rfl) (fun _ _ => rfl) fun v _ =>
    frameChecks_congr (s := s) (s' := { s with ds := d }) (fun x => by simp [State.lin, hmode])
      (fun gpr => by simp [State.dsLimitFails, hmode]) (fun _ _ => rfl) (fun _ _ => rfl)

/-- Settles O25: the limit check comes after the GPR area's, and in 64-bit mode DS is not read. -/
theorem dsLimitCheck : Obligations.DsLimitCheck := by
  refine ⟨?_, fun s d hmode => (exec_endAlike_setDs d hmode).eq_mapNext fun _ _ => rfl⟩
  rintro s v pa hadm ⟨pas, hpas⟩ hgpr hmode hout
  refine exec_of_dsLimit_fails hadm hpas hgpr fun hok => ?_
  simp [dsLimitOk_iff.1 hok hmode] at hout

/-! ### Other answers of the access check and other EPCM entries -/

/-- The state with another table of answers of the access check and another EPCM. -/
def State.setTables (s : State) (access : Assoc PageAccess) (epcm : Assoc EpcmEntry) : State :=
  { s with access := access, epcm := epcm }

section Tables
variable {s : State} {access : Assoc PageAccess} {epcm : Assoc EpcmEntry}

theorem accessCheckRW_setTables {la : Addr}
    (h : assocFind access (pageNo la) = assocFind s.access (pageNo la)) :
    (s.setTables access epcm).accessCheckRW la = s.accessCheckRW la := by
  simp only [State.accessCheckRW, State.setTables, h]

/-- Of the EPCM the view of the enclave depends on the TCS page's entry only. -/
theorem enclaveView_setTables (h : assocFind epcm (pageNo s.crTcsPa) = s.epcmEntry s.crTcsPa) :
    (s.setTables access epcm).enclaveView = s.enclaveView := by
  have hentry : (s.setTables access epcm).epcmEntry s.crTcsPa = s.epcmEntry s.crTcsPa := h
  rw [State.enclaveView, State.enclaveView, ← hentry]
  rfl

/-- The checks of the target frame read what the tables list for the examined pages. -/
theorem frameChecks_setTables {v : EnclaveView}
    (h : ∀ la, Examined s v la → assocFind access (pageNo la) = assocFind s.access (pageNo la) ∧
      ∀ pa, s.accessCheckRW la = .ok pa → assocFind epcm (pageNo pa) = s.epcmEntry pa) :
    (s.setTables access epcm).frameChecks v.owner (framePlan s.cfg v) = s.frameChecks v.owner (framePlan s.cfg v) :=
  frameChecks_congr (s := s) (fun _ => rfl) (fun _ => rfl)
    (fun la hla => regPageCheck_congr (accessCheckRW_setTables (h la hla).1) (h la hla).2 rfl)
    (fun la hla => cetPageCheck_congr (accessCheckRW_setTables (h la hla).1) (h la hla).2 rfl)

end Tables

/-- Settles O35: the view of the enclave and the checks of its target frame answer alike with the other tables, and the
premises read neither table. -/
theorem onlyExaminedPagesMatter : Obligations.OnlyExaminedPagesMatter := by
  intro s v access epcm henc htcs hexamined
  have halike : EndAlike s (s.setTables access epcm) (exec .edeccssa s)
      (exec .edeccssa (s.setTables access epcm)) := by
    refine exec_endAlike_of_tests rfl rfl (enclaveView_setTables htcs) (fun _ _ => rfl) (fun _ _ => rfl)
      fun v' henc' => ?_
    obtain rfl := henc.unique henc'
    exact frameChecks_setTables hexamined
  exact halike.eq_mapNext fun _ _ => rfl

/-! ### Another `OCETSSA` (40_edeccssa.md R81) -/

/-- The leaf ends alike on two states, each with its own view of the enclave, where each of its tests answers alike;
`f` takes the commit of the one to that of the other. (`exec_endAlike_of_tests` is for one view that both share.) -/
theorem exec_eq_mapNext_of_tests {s s' : State} {v v' : EnclaveView} {f : State → State}
    (hleaf : s'.leafPremises = s.leafPremises) (hin : s'.inEnclave = s.inEnclave)
    (henc : EnclaveReady s v) (henc' : EnclaveReady s' v') (hcssa : v'.tcs.cssa = v.tcs.cssa)
    (hlaunch : s'.launchPremises v' = s.launchPremises v) (hframe : s'.framePremises v' = s.framePremises v)
    (hchecks : s'.frameChecks v'.owner (framePlan s'.cfg v') = s.frameChecks v.owner (framePlan s.cfg v))
    (hcommit : ∀ x, s'.complete v'.tcs x = f (s.complete v.tcs x)) :
    exec .edeccssa s' = mapNext f (exec .edeccssa s) := by
  change execEdeccssa s' = mapNext f (execEdeccssa s)
  simp only [execEdeccssa, hleaf, hin, enclaveView_ok_iff.2 henc, enclaveView_ok_iff.2 henc', hlaunch, hcssa, hframe,
    hchecks, hcommit]
  cases s.leafPremises with
  | error r => rfl
  | ok _ =>
  cases s.inEnclave with
  | false => rfl
  | true =>
  cases s.launchPremises v with
  | error r => rfl
  | ok _ =>
  by_cases hzero : v.tcs.cssa = 0#32
  · simp only [hzero]
    rfl
  simp only [hzero]
  cases s.framePremises v with
  | error r => rfl
  | ok _ =>
  cases s.frameChecks v.owner (framePlan s.cfg v) with
  | error r => rfl
  | ok x => rfl

/-- The state with another `OCETSSA` in the TCS at `CR_TCS_PA`. -/
def State.setOcetssa (s : State) (tcs : Tcs) (x : BitVec 64) : State :=
  { s with tcss := assocPut s.tcss s.crTcsPa.toNat { tcs with ocetssa := x } }

/-- The view of the enclave with another `OCETSSA`. -/
def EnclaveView.setOcetssa (v : EnclaveView) (x : BitVec 64) : EnclaveView :=
  { v with tcs := { v.tcs with ocetssa := x } }

section Ocetssa
variable {s : State} {v : EnclaveView} {x : BitVec 64}

theorem EnclaveReady.setOcetssa (h : EnclaveReady s v) (x : BitVec 64) :
    EnclaveReady (s.setOcetssa v.tcs x) (v.setOcetssa x) where
  tcs := assocFind_put_self _ _ _
  tcsPage := h.tcsPage
  secs := h.secs
  valid := h.valid
  available := h.available
  notLocked := h.notLocked

theorem below4G_setOcetssa (hold : v.tcs.ocetssa.toNat < 2 ^ 32) (hnew : x.toNat < 2 ^ 32) :
    (v.setOcetssa x).below4G = v.below4G :=
  congrArg (_ && ·) ((decide_eq_true hnew).trans (decide_eq_true hold).symm)

/-- Of the premises only L10 asks of `OCETSSA`, outside 64-bit mode. -/
theorem launchPremises_setOcetssa (h : s.mode64 = false → v.tcs.ocetssa.toNat < 2 ^ 32 ∧ x.toNat < 2 ^ 32) :
    (s.setOcetssa v.tcs x).launchPremises (v.setOcetssa x) = s.launchPremises v := by
  have hbelow : (s.mode64 = false ∧ (v.setOcetssa x).below4G = false) ↔ (s.mode64 = false ∧ v.below4G = false) := by
    refine and_congr_right fun hmode => ?_
    rw [below4G_setOcetssa (h hmode).1 (h hmode).2]
  simp only [State.launchPremises, State.setOcetssa, hbelow]
  rfl

theorem framePremises_setOcetssa (hcet : cetOn s.cfg v.secs = false) :
    (s.setOcetssa v.tcs x).framePremises (v.setOcetssa x) = s.framePremises v := by
  have hplan : framePlan s.cfg (v.setOcetssa x) = framePlan s.cfg v := framePlan_setOcetssa hcet x
  simp only [State.framePremises, State.setOcetssa, hplan]
  rfl

theorem frameChecks_setOcetssa (hcet : cetOn s.cfg v.secs = false) :
    (s.setOcetssa v.tcs x).frameChecks v.owner (framePlan s.cfg (v.setOcetssa x)) =
      s.frameChecks v.owner (framePlan s.cfg v) := by
  have hplan : framePlan s.cfg (v.setOcetssa x) = framePlan s.cfg v := framePlan_setOcetssa hcet x
  rw [hplan]
  exact frameChecks_congr (s' := s.setOcetssa v.tcs x) (fun _ => rfl) (fun _ => rfl) (fun _ _ => rfl) (fun _ _ => rfl)

/-- The commit keeps the `OCETSSA` that the state holds. -/
theorem complete_setOcetssa (y : Targets) :
    (s.setOcetssa v.tcs x).complete (v.setOcetssa x).tcs y =
      { s.complete v.tcs y with
        tcss := assocPut s.tcss s.crTcsPa.toNat { v.tcs with ocetssa := x, cssa := v.tcs.cssa - 1 } } := by
  have htcss : ((s.setOcetssa v.tcs x).complete (v.setOcetssa x).tcs y).tcss =
      assocPut s.tcss s.crTcsPa.toNat { v.tcs with ocetssa := x, cssa := v.tcs.cssa - 1 } :=
    assocPut_put _ _ _ _
  rw [← htcss]
  rfl

end Ocetssa

/-- Settles O34: each test of the leaf answers alike for the two values, and the commit keeps the one it finds. -/
theorem cetOffReadsNoOcetssa : Obligations.CetOffReadsNoOcetssa := by
  intro s v x henc hcet hsmall
  exact exec_eq_mapNext_of_tests (s' := s.setOcetssa v.tcs x) rfl rfl henc (henc.setOcetssa x) rfl
    (launchPremises_setOcetssa hsmall) (framePremises_setOcetssa hcet) (frameChecks_setOcetssa hcet)
    complete_setOcetssa

end Sys2Proof.Machine
end

section
namespace Sys2Proof.Machine

/-! ### The causes of a fault of the leaf (60_exceptions.md R100 to R102) -/

section FaultCauses
variable {s : State} {f : Fault} {la la' : Addr} {ec : Nat}

/-- The leaf faults outside an enclave, where `CSSA` is 0, or with the fault of an admitted state's target frame. -/
theorem exec_eq_fault_cases (h : exec .edeccssa s = .fault f) :
    (s.inEnclave = false ∧ f = .gp0) ∨ (∃ v, EnclaveReady s v ∧ v.tcs.cssa = 0#32 ∧ f = .gp0) ∨
      ∃ v, Admitted s v ∧ s.frameChecks v.owner (framePlan s.cfg v) = .error f := by
  change execEdeccssa s = .fault f at h
  rcases execEdeccssa_cases s with ⟨-, r, he⟩ | ⟨-, hout, he⟩ | ⟨-, -, -, r, he⟩ | ⟨-, -, v, henc, hv⟩
  · cases he.symm.trans h
  · cases he.symm.trans h
    exact .inl ⟨hout, rfl⟩
  · cases he.symm.trans h
  rcases hv with ⟨-, r, he⟩ | ⟨-, hzero, he⟩ | ⟨-, -, -, r, he⟩ | ⟨hadm, f', hf, he⟩ | ⟨-, x, -, he⟩
  · cases he.symm.trans h
  · cases he.symm.trans h
    exact .inr (.inl ⟨v, henc, hzero, rfl⟩)
  · cases he.symm.trans h
  · cases he.symm.trans h
    exact .inr (.inr ⟨v, hadm, hf⟩)
  · cases he.symm.trans h

/-- A page check can fail with `f` at `la`: `f` is the fault of the access check, or the `#PF` of an EPCM check. Both
kinds of page check fail only so (`regPageCheck_error`, `cetPageCheck_error`). -/
def PageCheckFault (s : State) (la : Addr) (f : Fault) : Prop :=
  s.accessCheckRW la = .error f ∨ (∃ pa, s.accessCheckRW la = .ok pa) ∧ f = s.epcmFault la

/-- An EPCM check raises no `#GP(0)`, so one of a page check is the access check's. -/
theorem PageCheckFault.access_gp0 (h : PageCheckFault s la .gp0) : s.accessCheckRW la = .error .gp0 := by
  rcases h with haccess | ⟨-, hepcm⟩
  · exact haccess
  · cases hepcm

/-- A `#PF` of a page check is at the address checked. -/
theorem PageCheckFault.pf_addr (h : PageCheckFault s la (.pf la' ec)) : la' = la := by
  rcases h with haccess | ⟨-, hepcm⟩
  · exact eq_of_accessCheckRW_eq_pf haccess
  · exact (Fault.pf.inj hepcm).1

theorem not_usable_of_regPageCheck_error {owner : Nat} (h : s.regPageCheck owner la = .error f) (pa : Addr) :
    ¬ RegPageUsable s owner la pa := by
  intro husable
  cases (regPageCheck_ok_iff.2 husable).symm.trans h

theorem not_usable_of_cetPageCheck_error {owner : Nat} (h : s.cetPageCheck owner la = .error f) (pa : Addr) :
    ¬ CetPageUsable s owner la pa := by
  intro husable
  cases (cetPageCheck_ok_iff.2 husable).symm.trans h

/-- The DS limit check fails only outside 64-bit mode, and there exactly when the last byte of the GPR area is not in DS
(40_edeccssa.md R80). -/
theorem not_dsLimitOk_iff {v : EnclaveView} : ¬ DsLimitOk s v ↔
    s.mode64 = false ∧ dsContains s.ds ((framePlan s.cfg v).gpr + s.cfg.gprsgxSize - 1) = false := by
  rw [dsLimitOk_iff, Classical.not_imp, Bool.not_eq_true]

end FaultCauses

/-- Settles O27: a page check of the target frame passes on a `#GP(0)` of the access check and raises none itself. -/
theorem gpCausesComplete : Obligations.GpCausesComplete := by
  intro s h
  rcases exec_eq_fault_cases h with ⟨hout, -⟩ | ⟨v, henc, hzero, -⟩ | ⟨v, hadm, hchecks⟩
  · exact .inl hout
  · exact .inr (.inl (henc.cssa?.trans (congrArg some hzero)))
  refine .inr (.inr ?_)
  rcases frameChecks_error hchecks with ⟨n, hn, hpage⟩ | hgpr | ⟨hds, -⟩ | ⟨area, harea, hcet⟩
  · exact .inr ⟨v, _, hadm, .inl ⟨n, hn, rfl⟩, PageCheckFault.access_gp0 (regPageCheck_error hpage)⟩
  · exact .inr ⟨v, _, hadm, .inr (.inl rfl), PageCheckFault.access_gp0 (regPageCheck_error hgpr)⟩
  · exact .inl ⟨v, hadm, not_dsLimitOk_iff.1 hds⟩
  · exact .inr ⟨v, _, hadm, .inr (.inr ⟨area, harea, rfl⟩), PageCheckFault.access_gp0 (cetPageCheck_error hcet)⟩

/-- Settles O28: the page check that fails is of the address of the `#PF`, and a page that fails is not usable. -/
theorem pfCausesComplete : Obligations.PfCausesComplete := by
  intro s la ec h
  rcases exec_eq_fault_cases h with ⟨-, hf⟩ | ⟨v, -, -, hf⟩ | ⟨v, hadm, hchecks⟩
  · cases hf
  · cases hf
  refine ⟨v, hadm, ?_⟩
  rcases frameChecks_error hchecks with ⟨n, hn, hpage⟩ | hgpr | ⟨-, hf⟩ | ⟨area, harea, hcet⟩
  · obtain rfl := PageCheckFault.pf_addr (regPageCheck_error hpage)
    exact .inl ⟨n, hn, rfl, not_usable_of_regPageCheck_error hpage⟩
  · obtain rfl := PageCheckFault.pf_addr (regPageCheck_error hgpr)
    exact .inr (.inl ⟨rfl, not_usable_of_regPageCheck_error hgpr⟩)
  · cases hf
  · obtain rfl := PageCheckFault.pf_addr (cetPageCheck_error hcet)
    exact .inr (.inr ⟨area, harea, rfl, not_usable_of_cetPageCheck_error hcet⟩)

end Sys2Proof.Machine
end

section
namespace Sys2Proof.Machine

/-! ### The end of a program (60_exceptions.md R115 (c)) -/

theorem fetchBytes_of_no_byte {s : State} (h : Memory.read s.text (s.fetchAddr 0) = none) : s.fetchBytes = [] := by
  rw [State.fetchBytes, encluLen, readRun, h]

/-- Settles O42: no byte is fetched, and the decoder finds no instruction in no bytes. -/
theorem programEndIsRefused : Obligations.ProgramEndIsRefused := by
  intro s t _hstep hend
  have hdec : decode t.fetchBytes = .error .truncated := by
    rw [fetchBytes_of_no_byte hend]
    rfl
  exact step_of_decode_error hdec

/-! ### States on which the leaf completes alike -/

/-- The state with another table of TCSs and another number of the execution. -/
def State.setTcssDraws (s : State) (tcss : Assoc Tcs) (draws : Nat) : State :=
  { s with tcss := tcss, draws := draws }

/-- `t` stands where `s` does in a run: the next instruction and the leaf's reads are the same, but for other TCSs than
the one at `CR_TCS_PA` and the number of the execution, which only an error code depends on (log 5). -/
structure SameStanding (s t : State) : Prop where
  reads : SameReads (s.setTcssDraws t.tcss t.draws) t
  ownTcs : assocFind t.tcss s.crTcsPa.toNat = assocFind s.tcss s.crTcsPa.toNat
  text : t.text = s.text
  rip : t.rip.toNat % 2 ^ s.eaW = s.rip.toNat % 2 ^ s.eaW

section SetTcssDraws
variable {s : State} {tcss : Assoc Tcs} {draws : Nat} {v : EnclaveView}

theorem leafPremises_setTcssDraws : (s.setTcssDraws tcss draws).leafPremises = s.leafPremises := rfl

theorem launchPremises_setTcssDraws : (s.setTcssDraws tcss draws).launchPremises v = s.launchPremises v := rfl

theorem framePremises_setTcssDraws : (s.setTcssDraws tcss draws).framePremises v = s.framePremises v := rfl

theorem enclaveView_setTcssDraws (h : assocFind tcss s.crTcsPa.toNat = assocFind s.tcss s.crTcsPa.toNat) :
    (s.setTcssDraws tcss draws).enclaveView = s.enclaveView := by
  rw [State.enclaveView, State.enclaveView, ← h]
  rfl

theorem accessCheckRW_setTcssDraws {la pa : Addr} (h : s.accessCheckRW la = .ok pa) :
    (s.setTcssDraws tcss draws).accessCheckRW la = .ok pa := by
  obtain ⟨frame, hframe, hpa⟩ := accessCheckRW_ok_iff.1 h
  exact accessCheckRW_ok_iff.2 ⟨frame, hframe, hpa⟩

theorem RegPageUsable.setTcssDraws {owner : Nat} {la pa : Addr} (h : RegPageUsable s owner la pa) :
    RegPageUsable (s.setTcssDraws tcss draws) owner la pa :=
  ⟨accessCheckRW_setTcssDraws h.1, h.2⟩

theorem CetPageUsable.setTcssDraws {owner : Nat} {la pa : Addr} (h : CetPageUsable s owner la pa) :
    CetPageUsable (s.setTcssDraws tcss draws) owner la pa :=
  ⟨accessCheckRW_setTcssDraws h.1, h.2⟩

theorem CetPartOk.setTcssDraws {cetPa : Option Addr} (h : CetPartOk s v cetPa) :
    CetPartOk (s.setTcssDraws tcss draws) v cetPa := by
  cases hon : cetOn s.cfg v.secs with
  | false => exact (cetPartOk_of_cetOff (s := s.setTcssDraws tcss draws) hon).2 ((cetPartOk_of_cetOff hon).1 h)
  | true =>
    obtain ⟨pa, husable, hkept⟩ := (cetPartOk_of_cetOn hon).1 h
    exact (cetPartOk_of_cetOn (s := s.setTcssDraws tcss draws) hon).2 ⟨pa, husable.setTcssDraws, hkept⟩

/-- Neither the other TCSs nor the number of the execution decide whether a frame is usable. -/
theorem FrameUsable.setTcssDraws {x : Targets} (h : FrameUsable s v x) :
    FrameUsable (s.setTcssDraws tcss draws) v x where
  xsave := ⟨h.xsave.1, fun n pa hn => (h.xsave.2 n pa hn).setTcssDraws⟩
  gpr := h.gpr.setTcssDraws
  ds := h.ds
  cet := h.cet.setTcssDraws

end SetTcssDraws

namespace SameStanding
variable {s t : State} {v : EnclaveView} {x : Targets}

theorem fetchAddr (h : SameStanding s t) (i : Nat) : t.fetchAddr i = s.fetchAddr i := by
  have heaW : t.eaW = s.eaW := h.reads.eaW
  rw [State.fetchAddr, State.fetchAddr, State.truncateEa, State.truncateEa, heaW, Nat.add_mod, h.rip, ← Nat.add_mod]

theorem fetchBytes (h : SameStanding s t) : t.fetchBytes = s.fetchBytes := by
  rw [State.fetchBytes, State.fetchBytes, h.text, funext h.fetchAddr]

/-- Each premise is asked of the two states alike. -/
theorem admitted (h : SameStanding s t) (hadm : Admitted s v) : Admitted t v where
  leaf := by
    rw [← leafPremises_ok_iff (u := ()), h.reads.leafPremises, leafPremises_setTcssDraws]
    exact leafPremises_ok_iff.2 hadm.leaf
  inEnclave := h.reads.inEnclave.trans hadm.inEnclave
  enclave := by
    rw [← enclaveView_ok_iff, h.reads.enclaveView, enclaveView_setTcssDraws h.ownTcs]
    exact enclaveView_ok_iff.2 hadm.enclave
  launch := by
    rw [← launchPremises_ok_iff (u := ()), h.reads.launchPremises, launchPremises_setTcssDraws]
    exact launchPremises_ok_iff.2 hadm.launch
  cssa := hadm.cssa
  frame := by
    rw [← framePremises_ok_iff (u := ()), h.reads.framePremises, framePremises_setTcssDraws]
    exact framePremises_ok_iff.2 hadm.frame

theorem frameUsable (h : SameStanding s t) (hx : FrameUsable s v x) : FrameUsable t v x := by
  rw [← frameChecks_ok_iff, h.reads.cfg, h.reads.frameChecks]
  exact frameChecks_ok_iff.2 hx.setTcssDraws

/-- The step completes from `t` when it would from `s`. -/
theorem step_eq (h : SameStanding s t) (hfetch : s.fetchBytes = encode .edeccssa) (hadm : Admitted s v)
    (hx : FrameUsable s v x) : step t = .next (t.complete v.tcs x) := by
  have hdec : decode t.fetchBytes = .ok (.edeccssa, []) := by
    rw [h.fetchBytes, hfetch]
    exact decode_encode_append .edeccssa []
  rw [step_of_decode_ok hdec]
  exact exec_of_frameUsable (h.admitted hadm) (h.frameUsable hx)

end SameStanding

/-! ### The states of a run that pops frames (70_reset_and_hazards.md R122) -/

section Popped
variable {s t : State} {tcs : Tcs}

theorem popped_rip_toNat (s : State) (tcs : Tcs) (i : Nat) :
    (s.popped tcs i).rip.toNat = (s.rip.toNat + 3 * i) % 2 ^ s.eaW :=
  truncateEa_toNat s (s.rip.toNat + 3 * i)

theorem popped_ownTcs (s : State) (tcs : Tcs) (i : Nat) :
    assocFind (s.popped tcs i).tcss s.crTcsPa.toNat = some { tcs with cssa := tcs.cssa - BitVec.ofNat 32 i } :=
  assocFind_put_self _ _ _

theorem popped_decrementCssa (tcs : Tcs) (i : Nat) :
    Tcs.decrementCssa { tcs with cssa := tcs.cssa - BitVec.ofNat 32 i } =
      { tcs with cssa := tcs.cssa - BitVec.ofNat 32 (i + 1) } := by
  have hcssa : tcs.cssa - BitVec.ofNat 32 i - 1#32 = tcs.cssa - BitVec.ofNat 32 (i + 1) := by
    rw [BitVec.ofNat_add, BitVec.sub_sub]
  rw [Tcs.decrementCssa, hcssa]

/-- Before the first execution nothing is popped. -/
theorem sameStanding_popped_zero (htcs : assocFind s.tcss s.crTcsPa.toNat = some tcs) :
    SameStanding (s.popped tcs 0) s where
  reads := by constructor <;> rfl
  ownTcs := htcs.trans ((popped_ownTcs s tcs 0).trans (by simp)).symm
  text := rfl
  rip := by
    change _ = _ % 2 ^ s.eaW
    rw [popped_rip_toNat, Nat.mod_mod]
    rfl

/-- One execution takes a run from `i` frames popped to `i + 1`. -/
theorem SameStanding.complete_popped {i : Nat} {v : EnclaveView} {x : Targets}
    (h : SameStanding (s.popped tcs i) t) (hadm : Admitted (s.popped tcs i) v) :
    SameStanding (s.popped tcs (i + 1)) (t.complete v.tcs x) where
  reads := { h.reads with tcss := rfl, draws := rfl }
  ownTcs := by
    have hview : { tcs with cssa := tcs.cssa - BitVec.ofNat 32 i } = v.tcs :=
      Option.some.inj ((popped_ownTcs s tcs i).symm.trans hadm.enclave.tcs)
    have hpa : t.crTcsPa = s.crTcsPa := h.reads.crTcsPa
    change assocFind (t.complete v.tcs x).tcss s.crTcsPa.toNat = assocFind (s.popped tcs (i + 1)).tcss s.crTcsPa.toNat
    rw [State.complete_tcss, hpa, assocFind_put_self, popped_ownTcs, ← hview, popped_decrementCssa]
  text := h.text
  rip := by
    have heaW : t.eaW = s.eaW := h.reads.eaW
    have hrip : t.rip.toNat % 2 ^ s.eaW = (s.popped tcs i).rip.toNat % 2 ^ s.eaW := h.rip
    change t.nextRip.toNat % 2 ^ s.eaW = (s.popped tcs (i + 1)).rip.toNat % 2 ^ s.eaW
    rw [popped_rip_toNat, Nat.mod_mod] at hrip
    rw [nextRip_toNat, popped_rip_toNat, heaW, Nat.mod_mod, Nat.mod_mod, Nat.add_mod, hrip, ← Nat.add_mod]
    rfl

theorem SameStanding.cssa?_popped {i : Nat} (h : SameStanding (s.popped tcs i) t) :
    t.cssa? = some (tcs.cssa - BitVec.ofNat 32 i) := by
  have hpa : t.crTcsPa = s.crTcsPa := h.reads.crTcsPa
  have htcs : assocFind t.tcss s.crTcsPa.toNat = _ := h.ownTcs.trans (popped_ownTcs s tcs i)
  rw [State.cssa?, hpa, htcs]
  rfl

/-- The leaf can complete after `i` frames are popped: the instruction stands at `RIP`, and the target frame is
usable. -/
def PopReady (s : State) (tcs : Tcs) (i : Nat) : Prop :=
  (s.popped tcs i).fetchBytes = encode .edeccssa ∧
    ∃ v x, Admitted (s.popped tcs i) v ∧ FrameUsable (s.popped tcs i) v x

/-- A run goes on from `i` frames popped for as long as the leaf can complete. -/
theorem runOf_popped {k i : Nat} (h : SameStanding (s.popped tcs i) t)
    (hready : ∀ j, i ≤ j → j < i + k → PopReady s tcs j) :
    ∃ u, runOf k t = .next u ∧ SameStanding (s.popped tcs (i + k)) u := by
  induction k generalizing t i with
  | zero => exact ⟨t, rfl, h⟩
  | succ k ih =>
    obtain ⟨hfetch, v, x, hadm, hx⟩ := hready i le_rfl (by omega)
    obtain ⟨u, hrun, hu⟩ := ih (h.complete_popped (x := x) hadm) fun j hj hlt => hready j (by omega) (by omega)
    refine ⟨u, (runOf_succ_next (h.step_eq hfetch hadm hx)).trans hrun, ?_⟩
    rwa [Nat.add_right_comm] at hu

/-- Settles O40, by `runOf_popped` from no frame popped. -/
theorem runPopsKFrames : Obligations.RunPopsKFrames := by
  intro k s tcs htcs hready
  obtain ⟨t, hrun, ht⟩ := runOf_popped (k := k) (sameStanding_popped_zero htcs) fun j _ hj => hready j (by omega)
  rw [Nat.zero_add] at ht
  exact ⟨t, hrun, ht.cssa?_popped⟩

end Popped

end Sys2Proof.Machine
end

section
namespace Sys2Proof.Machine

/-! ### The launch premises and the refusals (70_reset_and_hazards.md R121) -/

section Refusals
variable {s : State} {v : EnclaveView}

/-- What is said of some view of the enclave is said of the one the leaf reaches. -/
theorem EnclaveReady.exists_and_iff (h : EnclaveReady s v) {P : EnclaveView → Prop} :
    (∃ v', EnclaveReady s v' ∧ P v') ↔ P v := by
  constructor
  · rintro ⟨v', h', hP⟩
    rwa [h.unique h']
  · exact fun hP => ⟨v, h, hP⟩

theorem launchPremises_of_unaligned
    (h : v.secs.baseAddr.toNat % 4096 ≠ 0 ∨ v.tcs.ossa.toNat % 4096 ≠ 0) :
    s.launchPremises v = .error .unaligned :=
  if_pos h

theorem launchPremises_of_gprsgxSize (hbase : v.secs.baseAddr.toNat % 4096 = 0)
    (hossa : v.tcs.ossa.toNat % 4096 = 0) (hsize : s.cfg.gprsgxSize < 1 ∨ 4096 < s.cfg.gprsgxSize) :
    s.launchPremises v = .error .gprAreaSize := by
  rw [State.launchPremises, if_neg (by simp [pageSize, hbase, hossa])]
  exact if_pos hsize

theorem below4G_eq_false_iff : v.below4G = false ↔
    2 ^ 32 ≤ v.secs.baseAddr.toNat ∨ 2 ^ 32 ≤ v.tcs.ossa.toNat ∨ 2 ^ 32 ≤ v.tcs.ocetssa.toNat := by
  simp only [EnclaveView.below4G, Bool.and_eq_false_iff, decide_eq_false_iff_not, not_lt, or_assoc]

end Refusals

/-- Settles O12: in each case of what the leaf can do, it is refused and the case names the premise that fails, or it is
not refused and the premises asked on the way all hold. -/
theorem refusedExactlyWhenPremiseFails : Obligations.RefusedExactlyWhenPremiseFails := by
  intro s
  change (∃ r, execEdeccssa s = .refused r) ↔ _
  rcases execEdeccssa_cases s with ⟨hleaf, hr⟩ | ⟨hleaf, hout, he⟩ | ⟨hleaf, hin, hno, hr⟩ | ⟨hleaf, hin, v, henc, hv⟩
  · exact iff_of_true hr (.inl hleaf)
  · simp [hleaf, hout, he]
  · exact iff_of_true hr (.inr ⟨hin, .inl hno⟩)
  have hview : ∃ v, EnclaveReady s v := ⟨v, henc⟩
  simp only [hleaf, hin, hview, henc.exists_and_iff, not_true_eq_false, false_or, true_and]
  rcases hv with ⟨hlaunch, hr⟩ | ⟨hlaunch, hzero, he⟩ | ⟨-, hcssa, hframe, hr⟩ | ⟨hadm, f, -, he⟩ | ⟨hadm, x, -, he⟩
  · exact iff_of_true hr (.inl hlaunch)
  · simp [hlaunch, hzero, he]
  · exact iff_of_true hr (.inr ⟨hcssa, hframe⟩)
  · simp [hadm.launch, hadm.frame, he]
  · simp [hadm.launch, hadm.frame, he]

/-- Settles O47: the alignments, `GPRSGX_SIZE`, the XSAVE size and L10 are tested in this order, before `CSSA` is. -/
theorem launchPremisesRefused : Obligations.LaunchPremisesRefused := by
  refine ⟨fun s v hleaf hin henc hunaligned => ?_, fun s v hleaf hin henc hbase hossa hsize => ?_,
    fun s v hleaf hin henc hbase hossa hlow hhigh hxsize hmode hhuge => ?_⟩
  all_goals refine exec_of_launchPremises_error hleaf hin henc ?_
  · exact launchPremises_of_unaligned hunaligned
  · exact launchPremises_of_gprsgxSize hbase hossa hsize
  · rw [launchPremises_of_aligned hbase hossa hlow hhigh, if_neg hxsize,
      if_pos ⟨hmode, below4G_eq_false_iff.2 hhuge⟩]

/-! ### The state that stands for reset (70_reset_and_hazards.md R120, log 1) -/

/-- A register that holds 0 fits in a physical address of any width. -/
theorem fitsPaW_zero (s : State) : FitsPaW s 0 := Nat.two_pow_pos _

/-- Settles O36: sparse data is empty at reset, and the registers the invariant bounds hold 0. -/
theorem resetMeetsTheInvariant : Obligations.ResetMeetsTheInvariant where
  text := rfl
  mem := rfl
  tcss := rfl
  secss := rfl
  epcm := rfl
  access := rfl
  xsavePages := rfl
  xsavePagesListed := nofun
  paW := le_rfl
  framesFit := nofun
  tcsFits := fitsPaW_zero _
  gprFits := fitsPaW_zero _
  cetFits := fitsPaW_zero _
  xsavePagesFit := nofun
  rip := Nat.two_pow_pos _

section WithFetchWord
variable (s : State) (nbits w : Nat)

@[simp] theorem withFetchWord_cfg : (s.withFetchWord nbits w).cfg = s.cfg := by
  rw [State.withFetchWord, State.selectLeaf_cfg, State.placeBytes_cfg]

@[simp] theorem withFetchWord_procMode : (s.withFetchWord nbits w).procMode = s.procMode := by
  rw [State.withFetchWord, State.selectLeaf_procMode, State.placeBytes_procMode]

@[simp] theorem withFetchWord_inEnclave : (s.withFetchWord nbits w).inEnclave = s.inEnclave := by
  rw [State.withFetchWord, State.selectLeaf_inEnclave, State.placeBytes_inEnclave]

end WithFetchWord

/-- L2 holds once the leaf is placed, and the values at reset meet L3 and L4. -/
theorem leafReady_reset_withFetchWord : LeafReady (State.reset.withFetchWord 24 0xD7010F) := by
  obtain ⟨_, heax, _⟩ := placedInstructionIsFetchedAndRun State.reset
  constructor
  case leaf => exact heax
  all_goals simp [State.reset]

/-- Settles O43: the placed leaf is fetched and run, and placing it leaves the processor outside an enclave. -/
theorem resetIsOutsideAnEnclave : Obligations.ResetIsOutsideAnEnclave := by
  have hout : State.reset.inEnclave = false := rfl
  obtain ⟨_, _, hstep⟩ := placedInstructionIsFetchedAndRun State.reset
  refine ⟨hout, hstep.trans (exec_of_outside leafReady_reset_withFetchWord ?_)⟩
  rw [withFetchWord_inEnclave, hout]

end Sys2Proof.Machine
end
